-- ==== Sys2Proof/Word.lean ====
section
/-! DEFINITION. The word types of the Softmodem CORE block (`spec/00_scope.md` R9). -/

namespace Sys2Proof

/-- "A 'word' is 32 bits" (R9): a command, argument, sample, result or event word. -/
abbrev Word := BitVec 32

/-- An octet: a tone id, a scheme id, a capability item, a byte of a queue or a menu. -/
abbrev Byte := BitVec 8

end Sys2Proof
end

