-- ==== Sys2Proof/Config.lean ====
section
/-! DEFINITION. The configuration record of `spec/00_scope.md` R7: every implementation parameter `P_*` and the three catalogs,
the constraints of R8 between them, the parameters that are OPEN in R7 as constants without a body (log entries 4 and 5), and
the parameters that are shapes of the state. The record's values stand in `Machine/Params.lean`. -/

namespace Sys2Proof

/-! ### Rows of the catalogs -/

namespace Machine

/-- A tone descriptor (`spec/20_memory.md` R77): frequencies in cHz, gains in Q14, times in ms, 0 = absent. -/
structure ToneDesc where
  f1 : Nat
  f2 : Nat
  amRate : Nat
  amLo : Nat
  amHi : Nat
  revMs : Nat
  debMs : Nat
  playMs : Nat
  succ : Byte
  deriving DecidableEq, Repr

/-- A channel of a scheme descriptor (`spec/20_memory.md` R78): centre and deviation in cHz, baud in cBd. -/
structure ChannelDesc where
  center : Int
  dev : Int
  baud : Nat
  deriving DecidableEq, Repr

/-- A scheme descriptor (`spec/20_memory.md` R78). -/
structure SchemeDesc where
  nch : Nat
  defTx : BitVec 1
  defRx : BitVec 1
  ch0 : ChannelDesc
  ch1 : ChannelDesc
  deriving DecidableEq, Repr

end Machine

namespace Config

/-! ### Shapes: the parameters that fix how many of a thing the state has. A type cannot depend on a record that is read at
run time, so these stand as numerals and the record takes them from here. -/

/-- `P_GZ_UNITS`: Goertzel units in the bank. -/
abbrev gzUnits : Nat := 16

/-- `P_IQ_TABLES`: I/Q tables, two channels times two bit values. -/
abbrev iqTables : Nat := 4

/-- `P_FSK_CHANNELS`: channels per scheme, at most. -/
abbrev fskChannels : Nat := 2

/-- `P_DET_CAND_MAX`: candidate tones in one detection set. -/
abbrev detCandMax : Nat := 16

/-- `P_DET_SUBSET_MAX`: distinct frequencies per subset. -/
abbrev detSubsetMax : Nat := 8

/-! ### The parameters that are OPEN in R7 -/

/-- `P_DATA_SCHEME`: the FSK scheme of the data phase. No body: nothing can be proved of its value (log entry 4). -/
opaque dataScheme : Byte

/-- `P_POST_DIAL_MS`: the post-dial silence delay in milliseconds, which the host keeps. No body (log entry 5). -/
opaque postDialMs : Nat

/-- `P_PRE_DATA_MS`: the pre-data delay in milliseconds, which the host keeps. No body (log entry 5). -/
opaque preDataMs : Nat

/-- The bytes behind `P_BOOTSTRAP`. No body (log entry 5). -/
opaque bootstrapBytes : List Byte

/-! ### The record -/

/-- The configuration record: one field per row of the table of R7, in its order. -/
structure Params where
  /-- `P_SRATE_DEFAULT`: the sample rate in Hz after reset. -/
  srateDefault : Nat
  /-- `P_SAMPLE_BITS`: the width of a sample word. -/
  sampleBits : Nat
  /-- `P_TONE_FREQS`: carriers per tone, at most. -/
  toneFreqs : Nat
  /-- `P_FSK_CHANNELS`: channels per FSK scheme, at most. -/
  fskChannels : Nat
  /-- `P_FRAME_DATA_BITS`: data bits per frame. -/
  frameDataBits : Nat
  /-- `P_V8_SYNC_BITS`: the length of the marker. -/
  v8SyncBits : Nat
  /-- `P_V8_MOD_OCTETS`: modulation-mode octets in a menu. -/
  v8ModOctets : Nat
  /-- `P_V8_ZERO_FRAMES`: consecutive zero-byte frames that end negotiation. -/
  v8ZeroFrames : Nat
  /-- `P_V8_CONFIRMATIONS`: equal consecutive menus that confirm. -/
  v8Confirmations : Nat
  /-- `P_FREQ_UNIT`: units of a frequency word in one hertz. -/
  freqUnit : Nat
  /-- `P_PHASE_BITS`: the width of a phase accumulator. -/
  phaseBits : Nat
  /-- `P_TABLE_BITS`: log2 of the size of the sine ROM. -/
  tableBits : Nat
  /-- `P_AMP_BITS`: log2 of the peak of the sine ROM. -/
  ampBits : Nat
  /-- `P_FRAC`: fraction bits of every gain, envelope and coefficient. -/
  frac : Nat
  /-- `P_GZ_UNITS`. -/
  gzUnits : Nat
  /-- `P_GZ_TAP_BITS`: the width of a Goertzel tap and of a power value. -/
  gzTapBits : Nat
  /-- `P_IQ_TABLES`. -/
  iqTables : Nat
  /-- `P_RING_SIZE`: the length of a demodulator ring and of an I/Q table. -/
  ringSize : Nat
  /-- `P_DET_BLOCK`: the Goertzel block size of the tone classifier, in samples. -/
  detBlock : Nat
  /-- `P_DET_POWER_MIN`: the least power a winning frequency must have. -/
  detPowerMin : Int
  /-- `P_DET_TWIST_SHIFT`: the weaker winner must be at least the stronger shifted right by this. -/
  detTwistShift : Nat
  /-- `P_DET_CAND_MAX`. -/
  detCandMax : Nat
  /-- `P_DET_SUBSET_MAX`. -/
  detSubsetMax : Nat
  /-- `P_CLK_NUDGE`: the realignment step of the symbol clock. -/
  clkNudge : Word
  /-- `P_TXQ_CAP`: the capacity of the transmit byte queue. -/
  txqCap : Nat
  /-- `P_MENU_CAP`: the capacity of the receive-menu buffer and of the outgoing-menu buffer, in bytes. -/
  menuCap : Nat
  /-- `P_CAPSET_CAP`: the capacity of each capability set, in items. -/
  capsetCap : Nat
  /-- `P_V8_PREAMBLE_ONES`: one-bits sent before each marker. -/
  v8PreambleOnes : Nat
  /-- `P_V8_SYNC`: the marker, first bit on the line = bit 9. -/
  v8Sync : BitVec 10
  /-- `P_V8_SCHEME`: the FSK scheme the V.8 engine uses. -/
  v8Scheme : Byte
  /-- `P_V8_ANSWER_TONE`: the tone the façade starts the V.8 engine with. -/
  v8AnswerTone : Byte
  /-- `P_DATA_SCHEME`. -/
  dataScheme : Byte
  /-- `P_POST_DIAL_MS`. -/
  postDialMs : Nat
  /-- `P_PRE_DATA_MS`. -/
  preDataMs : Nat
  /-- `P_BOOTSTRAP`: the bootstrap command string. -/
  bootstrap : List Byte
  /-- `P_V8_WATCHDOG`: the handshake timeout; `none` is the table's "none". -/
  v8Watchdog : Option Nat
  /-- The tone catalog, from id 0x00 on (`spec/30_encoding.md` R104). -/
  tones : List Machine.ToneDesc
  /-- The FSK scheme catalog, from id 0 on (`spec/30_encoding.md` R106). -/
  schemes : List Machine.SchemeDesc
  /-- The capability item space: the first and the last item of each category (`spec/30_encoding.md` R110). -/
  itemRanges : List (Nat × Nat)
  deriving Repr

/-- The symbol length in samples of a channel at the default rate is at most the ring, or the channel is absent (R8, last
constraint: the window is one symbol and "is at most `P_RING_SIZE`"). -/
def Params.windowFits (p : Params) (e : Machine.ChannelDesc) : Bool :=
  decide (e.baud = 0) || decide ((p.freqUnit * p.srateDefault) / e.baud ≤ p.ringSize)

/-- The constraints of R8 on a configuration: `DOMAIN` a multiple of `TABLE`, the table not finer than the phase, the ring a
power of two, the window of every channel inside the ring. -/
def Params.wf (p : Params) : Bool :=
  decide (2 ^ p.phaseBits % 2 ^ p.tableBits = 0) && decide (p.tableBits ≤ p.phaseBits) &&
    decide (2 ^ Nat.log2 p.ringSize = p.ringSize) &&
    p.schemes.all (fun d => p.windowFits d.ch0 && p.windowFits d.ch1)

end Config
end Sys2Proof
end

