-- ==== Sys2Proof/Machine/Params.lean ====
section
/-! DEFINITION. The values of the configuration record: the reference configuration of `spec/00_scope.md` R7 with the tone catalog
(`spec/30_encoding.md` R104), the FSK scheme catalog (R106, R107) and the item space (R110) (log entry 6), and the names under
which the machine reads the record. -/

namespace Sys2Proof.Machine

/-! ### Catalogs -/

/-- The descriptor of an id that is in no row: every field 0. -/
def noTone : ToneDesc := ⟨0, 0, 0, 0, 0, 0, 0, 0, 0#8⟩

/-- A catalog row without modulation and reversal, frequencies in Hz: f1, f2, debounce ms, play ms, successor. -/
def plainTone (f1 f2 deb play : Nat) (succ : Byte) : ToneDesc := ⟨f1 * 100, f2 * 100, 0, 0, 0, 0, deb, play, succ⟩

/-- A 2100 Hz answer-tone row (R104): modulation rate in Hz, its two depth bounds, reversal ms. -/
def answerTone (amRate amLo amHi rev : Nat) : ToneDesc := ⟨210000, 0, amRate * 100, amLo, amHi, rev, 48, 3300, 0#8⟩

/-- The tone catalog from id 0x00 on (R104). -/
def toneCatalog : List ToneDesc :=
  [noTone,
   plainTone 697 1209 48 0 0#8, plainTone 697 1336 48 0 0#8, plainTone 697 1477 48 0 0#8,
   plainTone 770 1209 48 0 0#8, plainTone 770 1336 48 0 0#8, plainTone 770 1477 48 0 0#8,
   plainTone 852 1209 48 0 0#8, plainTone 852 1336 48 0 0#8, plainTone 852 1477 48 0 0#8,
   plainTone 941 1336 48 0 0#8, plainTone 941 1209 48 0 0#8, plainTone 941 1477 48 0 0#8,
   plainTone 697 1633 48 0 0#8, plainTone 770 1633 48 0 0#8, plainTone 852 1633 48 0 0#8, plainTone 941 1633 48 0 0#8,
   plainTone 350 440 48 0 0#8, plainTone 425 0 48 0 0#8,
   answerTone 0 0 0 0, answerTone 0 0 0 450, answerTone 15 13107 19661 0, answerTone 15 13107 19661 450,
   plainTone 1300 0 48 600 0#8, plainTone 1100 0 48 500 0#8,
   plainTone 1375 2002 48 400 0x1A#8, plainTone 400 0 48 100 0#8]

/-- The channel a scheme does not have. -/
def noChannel : ChannelDesc := ⟨0, 0, 0⟩

/-- The descriptor of a scheme that does not exist. -/
def noScheme : SchemeDesc := ⟨0, 0#1, 0#1, noChannel, noChannel⟩

/-- The scheme catalog from id 0 on (R106, R107). -/
def schemeCatalog : List SchemeDesc :=
  [noScheme,
   ⟨2, 0#1, 1#1, ⟨108000, -10000, 30000⟩, ⟨175000, -10000, 30000⟩⟩,
   ⟨2, 0#1, 1#1, ⟨170000, -40000, 120000⟩, ⟨150000, -20000, 60000⟩⟩,
   ⟨2, 0#1, 1#1, ⟨117000, 10000, 30000⟩, ⟨212500, 10000, 30000⟩⟩,
   ⟨1, 0#1, 0#1, ⟨170000, -50000, 120000⟩, noChannel⟩,
   ⟨1, 0#1, 0#1, ⟨160000, -20000, 4545⟩, noChannel⟩,
   ⟨1, 0#1, 0#1, ⟨160000, -20000, 5000⟩, noChannel⟩]

/-- The item space (R110): the first and the last item of each category. -/
def itemSpace : List (Nat × Nat) :=
  [(0x10, 0x17), (0x20, 0x22), (0x30, 0x34), (0x40, 0x44), (0x50, 0x57), (0x60, 0x62), (0x70, 0x72), (0x80, 0x87),
   (0x90, 0x97)]

end Sys2Proof.Machine

namespace Sys2Proof.Config

/-! ### The record -/

/-- The reference configuration: the value column of R7, with the OPEN rows left open. `P_BOOTSTRAP` is "a byte string of length
0 to 64" (`spec/46_facade_host.md` R342): the open bytes, kept to that bound. -/
def reference : Params where
  srateDefault := 16000
  sampleBits := 32
  toneFreqs := 2
  fskChannels := fskChannels
  frameDataBits := 8
  v8SyncBits := 10
  v8ModOctets := 3
  v8ZeroFrames := 3
  v8Confirmations := 2
  freqUnit := 100
  phaseBits := 32
  tableBits := 10
  ampBits := 14
  frac := 14
  gzUnits := gzUnits
  gzTapBits := 64
  iqTables := iqTables
  ringSize := 512
  detBlock := 256
  detPowerMin := 2 ^ 30
  detTwistShift := 4
  detCandMax := detCandMax
  detSubsetMax := detSubsetMax
  clkNudge := 0x10000000#32
  txqCap := 64
  menuCap := 16
  capsetCap := 16
  v8PreambleOnes := 10
  v8Sync := 0x00F#10
  v8Scheme := 1#8
  v8AnswerTone := 0x15#8
  dataScheme := dataScheme
  postDialMs := postDialMs
  preDataMs := preDataMs
  bootstrap := bootstrapBytes.take 64
  v8Watchdog := none
  tones := Machine.toneCatalog
  schemes := Machine.schemeCatalog
  itemRanges := Machine.itemSpace

/-- The machine's configuration. The names below read it; a row that is a width, a count of registers or the structure of a
rule (`P_SAMPLE_BITS`, `P_PHASE_BITS`, `P_GZ_TAP_BITS`, `P_GZ_UNITS`, `P_IQ_TABLES`, `P_FSK_CHANNELS`, `P_DET_CAND_MAX`,
`P_DET_SUBSET_MAX`, `P_TONE_FREQS`, `P_FRAME_DATA_BITS`, `P_V8_SYNC_BITS`, `P_V8_MOD_OCTETS`, `P_V8_CONFIRMATIONS`,
`P_FREQ_UNIT`, `P_AMP_BITS`) is carried by the types and the rules that state it. -/
def params : Params := reference

/-! ### The names the machine reads it by -/

/-- `P_SRATE_DEFAULT`. -/
def srateDefault : Nat := params.srateDefault

/-- `TABLE_SHIFT = P_PHASE_BITS - P_TABLE_BITS` (R11). -/
def tableShift : Nat := params.phaseBits - params.tableBits

/-- `TABLE = 2^P_TABLE_BITS`, the size of the sine ROM (R11). -/
def tableSize : Nat := 2 ^ params.tableBits

/-- `P_FRAC`. -/
def frac : Nat := params.frac

/-- `ONE = 2^P_FRAC`, 1.0 in Q14 (R11). -/
def one : Word := BitVec.ofNat 32 (2 ^ params.frac)

/-- `HALF = DOMAIN / 2`, half of the phase domain (R11). -/
def half : Word := BitVec.ofNat 32 (2 ^ (params.phaseBits - 1))

/-- `QUARTER = DOMAIN / 4`, a quarter of the phase domain (R11). -/
def quarter : Word := BitVec.ofNat 32 (2 ^ (params.phaseBits - 2))

/-- `INDEF`, the "indefinite" duration word (R11). -/
def indef : Word := 0xFFFFFFFF#32

/-- `P_RING_SIZE`; `RING_MASK = P_RING_SIZE - 1`. -/
def ringSize : Nat := params.ringSize

/-- `P_DET_BLOCK`. -/
def detBlock : Nat := params.detBlock

/-- `P_DET_POWER_MIN`. -/
def detPowerMin : Int := params.detPowerMin

/-- `P_DET_TWIST_SHIFT`. -/
def detTwistShift : Nat := params.detTwistShift

/-- `P_CLK_NUDGE`. -/
def clkNudge : Word := params.clkNudge

/-- `P_TXQ_CAP`. -/
def txqCap : Nat := params.txqCap

/-- `P_MENU_CAP`. -/
def menuCap : Nat := params.menuCap

/-- `P_CAPSET_CAP`. -/
def capsetCap : Nat := params.capsetCap

/-- `P_V8_PREAMBLE_ONES`. -/
def v8PreambleOnes : Nat := params.v8PreambleOnes

/-- `P_V8_SYNC`. -/
def v8Sync : BitVec 10 := params.v8Sync

/-- `P_V8_ZERO_FRAMES`. -/
def v8ZeroFrames : Nat := params.v8ZeroFrames

/-- `P_V8_SCHEME`. -/
def v8Scheme : Byte := params.v8Scheme

/-- `P_V8_ANSWER_TONE`. -/
def v8AnswerTone : Byte := params.v8AnswerTone

/-- `P_BOOTSTRAP`. -/
def bootstrap : List Byte := params.bootstrap

end Sys2Proof.Config
end

