-- ==== Sys2Proof/Syntax.lean ====
section
/-! DEFINITION. The operations of the block: one constructor of `Instr` per row of `spec/opcode_table.json`
(`spec/30_encoding.md` R101), with the operands the row's words carry. A value that R93 calls structurally out of range
(unit 16, instance 3, bit 2) has no term: the decoder answers it `ILLEGAL`. -/

namespace Sys2Proof

/-- V.8 role, `sel` of `V8_START` and register `V8_ROLE` (R109): 0 `SEND`, 1 `LISTEN`. -/
inductive Role where
  | send
  | listen
  deriving DecidableEq, Repr

/-- The two one-shot timers (R109): 0 post-dial, 1 pre-data. -/
inductive Timer where
  | postDial
  | preData
  deriving DecidableEq, Repr

/-- The two components of an I/Q table, `sel[2]` of `CORRELATE` (R101, R109): 0 I, 1 Q. -/
inductive Component where
  | inPhase
  | quadrature
  deriving DecidableEq, Repr

/-- Frame bit order, register `FRM_ORDER` (R109): 0 least significant data bit first, 1 most significant first. -/
inductive BitOrder where
  | lsbFirst
  | msbFirst
  deriving DecidableEq, Repr

/-- An operation with its operands (R90, R101). `args` words are `Word`s read as unsigned (R92); a list `xs` is the sample words
`X[0 .. count-1]`, whose length is the operation's `imm`; a line bit is a `Bool`. -/
inductive Instr where
  | nop
  | reset
  | setRate (hz : Word)
  | getRate
  | rdReg (index : BitVec 8) (id : BitVec 16)
  | rdMem (mem : BitVec 8) (addr : BitVec 16)
  | phaseInc (f : Word)
  | phaseInv
  | sine (ph : Word)
  | gzInit (u : Fin 16) (n : BitVec 16) (f : Word)
  | gzAcc (u : Fin 16) (xs : List Word)
  | gzPower (u : Fin 16)
  | iqBuild (t : Fin 4) (len : BitVec 16) (f : Word)
  | correlate (t : Fin 4) (q : Component) (start : Word)
  | frmCfg (k : Fin 3) (o : BitOrder)
  | frmLoad (k : Fin 3) (b : Byte)
  | frmPop (k : Fin 3)
  | frmPush (k : Fin 3) (b : Bool)
  | frmReset (k : Fin 3)
  | toneStart (id : Byte) (so : BitVec 16) (total : Word) (gain : Word)
  | toneStartF (f1 : Word) (f2 : Word) (total : Word) (gain : Word)
  | toneTx (count : BitVec 16)
  | toneStop
  | detCfg (ids : List Word)
  | detSingle (xs : List Word)
  | detDual (xs : List Word)
  | detReset
  | fskSelect (id : Byte)
  | fskTxch (c : Fin 2)
  | fskRxch (c : Fin 2)
  | fskTxen (e : Bool)
  | fskTx (count : BitVec 16)
  | fskRx (xs : List Word)
  | txByte (b : Byte)
  | dataPopTxBit
  | dataPushRxBit (b : Bool)
  | v8Start (role : Role) (tone : BitVec 16)
  | v8Stop
  | v8AddCap (item : Byte)
  | v8GetTxcaps
  | v8GetRxcaps
  | v8Tx (count : BitVec 16)
  | v8Rx (xs : List Word)
  | v8PopTxBit
  | v8PushRxBit (b : Bool)
  | restart (t : Byte)
  | isOnHook
  | setOnHook
  | setOffHook (t : Byte)
  | pull (count : BitVec 16)
  | push (xs : List Word)
  | serialBit (b : Bool)
  | timerFire (w : Timer)
  deriving DecidableEq, Repr

/-- One command as the host presents it at the ports (`spec/20_memory.md` R83): the command word, the argument words and the
input sample words. "The host frames them" (R93). -/
structure Frame where
  cw : Word
  args : List Word
  samples : List Word
  deriving DecidableEq, Repr

end Sys2Proof
end

