-- ==== Sys2Proof/Machine/State.lean ====
section
/-! DEFINITION. The state of the block as plain data (`spec/10_state.md`), unit by unit, with the reset value of every register
(R56), and the reasons a step can stop. Widths are the spec's: a register declared uN or sN is a `BitVec N` (`spec/00_scope.md`
R10), a one-bit register is a `Bool`, a register whose values the spec enumerates is that enumeration. -/

namespace Sys2Proof.Machine

/-- A word memory (RAM) of the block: (address, word) pairs, addresses strictly rising, no word 0; an address that is not listed
reads 0, its reset content (`spec/20_memory.md` R61, `spec/10_state.md` R56). -/
abbrev Ram (w : Nat) := List (Nat × BitVec w)

/-- Frame-parser state `FRM_PST` (`spec/30_encoding.md` R109): 0 `IDLE`, 1 `DATA`, 2 `STOP`. -/
inductive ParserState where
  | idle
  | data
  | stop
  deriving DecidableEq, Repr

/-- V.8 phase `V8_PHASE` (`spec/30_encoding.md` R108), codes 0 to 8 in this order. -/
inductive Phase where
  | idle
  | txAns
  | rxAns
  | sentAnsam
  | sentCm
  | waitCm
  | sentJm
  | negotiated
  | stopped
  deriving DecidableEq, Repr

/-- Call state `CALL_STATE` (`spec/10_state.md` R50), codes 0 to 4 in this order. -/
inductive CallState where
  | onHook
  | offHookIdle
  | dialing
  | v8
  | data
  deriving DecidableEq, Repr

/-- Status codes (`spec/30_encoding.md` R95): `OK = 0`, `FAIL = 1`, `ILLEGAL = 2`. -/
inductive Status where
  | ok
  | fail
  | illegal
  deriving DecidableEq, Repr

/-- The four events of the block (`spec/30_encoding.md` R99). -/
inductive Event where
  | toneDone (id : Byte)
  | v8State (old new : Phase)
  | rxByte (b : Byte)
  | timerReq (w : Timer)
  deriving DecidableEq, Repr

/-- The response to an operation (`spec/30_encoding.md` R94). `status` is `none` before the first operation and while one runs
(log entry 2). -/
structure Response where
  status : Option Status
  results : List Word
  samples : List Word
  events : List Event
  deriving DecidableEq, Repr

/-- No response yet. -/
def Response.empty : Response := ⟨none, [], [], []⟩

/-- One Goertzel unit `GZ[u]` (`spec/10_state.md` R24). -/
structure Goertzel where
  /-- `GZ_COEFF`, s32. -/
  coeff : BitVec 32
  /-- `GZ_N`, u16. -/
  n : BitVec 16
  /-- `GZ_CNT`, u16. -/
  cnt : BitVec 16
  /-- `GZ_S1`, s64. -/
  s1 : BitVec 64
  /-- `GZ_S2`, s64. -/
  s2 : BitVec 64
  deriving DecidableEq, Repr

def Goertzel.reset : Goertzel := ⟨0#32, 0#16, 0#16, 0#64, 0#64⟩

/-- One I/Q table `IQ[t]` (`spec/10_state.md` R26). -/
structure IqTable where
  /-- `IQ_LEN`, u16. -/
  len : BitVec 16
  /-- `IQ_I[t]`, 512 words s16. -/
  i : Ram 16
  /-- `IQ_Q[t]`, 512 words s16. -/
  q : Ram 16
  deriving DecidableEq, Repr

def IqTable.reset : IqTable := ⟨0#16, [], []⟩

/-- One frame codec `CODEC[k]` (`spec/10_state.md` R27 to R31). -/
structure Codec where
  /-- `FRM_ORDER`, u1. -/
  order : BitOrder
  /-- `FRM_BFRAME`, u10. -/
  bframe : BitVec 10
  /-- `FRM_BN`, u4. -/
  bn : BitVec 4
  /-- `FRM_PST`, u2. -/
  pst : ParserState
  /-- `FRM_PK`, u3. -/
  pk : BitVec 3
  /-- `FRM_PACC`, u8. -/
  pacc : Byte
  deriving DecidableEq, Repr

def Codec.reset : Codec := ⟨.lsbFirst, 0x3FF#10, 0#4, .idle, 0#3, 0#8⟩

/-- The tone transmitter (`spec/10_state.md` R33). -/
structure ToneTx where
  /-- `TONE_ACTIVE`, u1. -/
  active : Bool
  /-- `TONE_ID`, u8. -/
  id : Byte
  /-- `TONE_INC1`, u32. -/
  inc1 : Word
  /-- `TONE_INC2`, u32. -/
  inc2 : Word
  /-- `TONE_HAS2`, u1. -/
  has2 : Bool
  /-- `TONE_PH1`, u32. -/
  ph1 : Word
  /-- `TONE_PH2`, u32. -/
  ph2 : Word
  /-- `TONE_AMINC`, u32. -/
  amInc : Word
  /-- `TONE_AMPH`, u32. -/
  amPh : Word
  /-- `TONE_AMMID`, u16. -/
  amMid : BitVec 16
  /-- `TONE_AMHALF`, u16. -/
  amHalf : BitVec 16
  /-- `TONE_REVINT`, u32. -/
  revInt : Word
  /-- `TONE_REVLEFT`, u32. -/
  revLeft : Word
  /-- `TONE_FINITE`, u1. -/
  finite : Bool
  /-- `TONE_LEFT`, u32. -/
  left : Word
  /-- `TONE_SUCC`, u8. -/
  succ : Byte
  /-- `TONE_GAIN`, u32. -/
  gain : Word
  deriving DecidableEq, Repr

def ToneTx.reset : ToneTx :=
  ⟨false, 0#8, 0#32, 0#32, false, 0#32, 0#32, 0#32, 0#32, 0#16, 0#16, 0#32, 0#32, false, 0#32, 0#8, 0#32⟩

/-- The tone classifier (`spec/10_state.md` R36, R38). -/
structure Detector where
  /-- `DET_N`, u5. -/
  n : BitVec 5
  /-- `DET_NA`, u4. -/
  na : BitVec 4
  /-- `DET_NB`, u4. -/
  nb : BitVec 4
  /-- `DET_CANDID[0..15]`, u8. -/
  candId : Vector Byte Config.detCandMax
  /-- `DET_FA[0..7]`, u32. -/
  fa : Vector Word Config.detSubsetMax
  /-- `DET_FB[0..7]`, u32. -/
  fb : Vector Word Config.detSubsetMax
  /-- `DET_FILL`, u16. -/
  fill : BitVec 16
  /-- `DET_CAND`, u8. -/
  cand : Byte
  /-- `DET_HITS`, u32. -/
  hits : Word
  deriving DecidableEq, Repr

def Detector.reset : Detector :=
  ⟨0#5, 0#4, 0#4, Vector.replicate _ 0#8, Vector.replicate _ 0#32, Vector.replicate _ 0#32, 0#16, 0#8, 0#32⟩

/-- The scheme registers (`spec/10_state.md` R39). -/
structure FskRegs where
  /-- `FSK_SCHEME`, u8. -/
  scheme : Byte
  /-- `FSK_NCH`, u2. -/
  nch : BitVec 2
  /-- `FSK_TXCH`, u1. -/
  txch : BitVec 1
  /-- `FSK_RXCH`, u1. -/
  rxch : BitVec 1
  /-- `FSK_TXEN`, u1. -/
  txen : Bool
  deriving DecidableEq, Repr

def FskRegs.reset : FskRegs := ⟨0#8, 0#2, 0#1, 0#1, false⟩

/-- One FSK channel: the derived registers (`spec/10_state.md` R40), the modulator (R41) and the demodulator (R42). -/
structure FskChannel where
  /-- `FSK_INC0[c]`, u32. -/
  inc0 : Word
  /-- `FSK_INC1[c]`, u32. -/
  inc1 : Word
  /-- `FSK_BINC[c]`, u32. -/
  binc : Word
  /-- `FSK_SYMLEN[c]`, u16. -/
  symlen : BitVec 16
  /-- `FSK_SHIFT[c]`, u4. -/
  shift : BitVec 4
  /-- `MOD_PH[c]`, u32. -/
  modPh : Word
  /-- `MOD_CLK[c]`, u32. -/
  modClk : Word
  /-- `MOD_BIT[c]`, u1. -/
  modBit : Bool
  /-- `DEM_CLK[c]`, u32. -/
  demClk : Word
  /-- `DEM_EST[c]`, u1. -/
  demEst : Bool
  /-- `DEM_WIDX[c]`, u9. -/
  demWidx : BitVec 9
  /-- `RING[c]`, 512 words s32. -/
  ring : Ram 32
  deriving DecidableEq, Repr

def FskChannel.reset : FskChannel :=
  ⟨0#32, 0#32, 0#32, 0#16, 0#4, 0#32, 0#32, true, 0#32, true, 0#9, []⟩

/-- The transmit byte queue (`spec/10_state.md` R43). -/
structure TxQueue where
  /-- `TXQ[0..63]`, u8. -/
  mem : Ram 8
  /-- `TXQ_HEAD`, u6. -/
  head : BitVec 6
  /-- `TXQ_COUNT`, u7. -/
  count : BitVec 7
  deriving DecidableEq, Repr

def TxQueue.reset : TxQueue := ⟨[], 0#6, 0#7⟩

/-- The V.8 engine (`spec/10_state.md` R45). -/
structure V8Regs where
  /-- `V8_PHASE`, u4. -/
  phase : Phase
  /-- `V8_ROLE`, u1. -/
  role : Role
  /-- `V8_NTX`, u5. -/
  ntx : BitVec 5
  /-- `V8_NRX`, u5. -/
  nrx : BitVec 5
  /-- `V8_RXLEN`, u5. -/
  rxlen : BitVec 5
  /-- `V8_CK`, u32. -/
  ck : Word
  /-- `V8_CKV`, u1. -/
  ckv : Bool
  /-- `V8_OUTLEN`, u5. -/
  outlen : BitVec 5
  /-- `V8_CURSOR`, u16. -/
  cursor : BitVec 16
  /-- `V8_SYNC`, u10. -/
  sync : BitVec 10
  /-- `V8_ZRUN`, u2. -/
  zrun : BitVec 2
  /-- `V8_TXCAPS[0..15]`, u8. -/
  txcaps : Ram 8
  /-- `V8_RXCAPS[0..15]`, u8. -/
  rxcaps : Ram 8
  /-- `V8_RXBUF[0..15]`, u8. -/
  rxbuf : Ram 8
  /-- `V8_OUT[0..15]`, u8. -/
  out : Ram 8
  deriving DecidableEq, Repr

def V8Regs.reset : V8Regs :=
  ⟨.idle, .send, 0#5, 0#5, 0#5, 0#32, false, 0#5, 0#16, 0x3FF#10, 0#2, [], [], [], []⟩

/-- Every piece of state the spec gives the block, and the two port fields `pending` and `resp` of the model. -/
structure State where
  /-- `SRATE`, u32 (`spec/10_state.md` R23). -/
  srate : Word
  /-- `CALL_STATE` (R50). -/
  callState : CallState
  /-- `DIAL_TONE`, u8 (R51). -/
  dialTone : Byte
  /-- `TIMER_PEND`, u2 (R52): bit 0 post-dial, bit 1 pre-data. -/
  timerPend : BitVec 2
  /-- The Goertzel bank `GZ[0..15]` (R24). -/
  gz : Vector Goertzel Config.gzUnits
  /-- The I/Q tables `IQ[0..3]` (R26). -/
  iq : Vector IqTable Config.iqTables
  /-- The frame codecs: 0 LINE, 1 DTE, 2 V8 (R27). -/
  codec : Vector Codec 3
  /-- The tone transmitter (R33). -/
  tone : ToneTx
  /-- The tone classifier (R36, R38). -/
  det : Detector
  /-- The scheme registers (R39). -/
  fsk : FskRegs
  /-- The two FSK channels (R40 to R42). -/
  chan : Vector FskChannel Config.fskChannels
  /-- The transmit byte queue (R43). -/
  txq : TxQueue
  /-- The V.8 engine (R45). -/
  v8 : V8Regs
  /-- MODEL FIELD: the framed commands the host has presented and the block has not yet taken, oldest first (log entry 1). -/
  pending : List Frame
  /-- MODEL FIELD: the response of the operation last run (log entry 2). -/
  resp : Response
  deriving DecidableEq, Repr

/-- The machine right after reset (`spec/10_state.md` R56, `spec/70_reset_and_hazards.md` R385). -/
def State.reset : State where
  srate := BitVec.ofNat 32 Config.srateDefault
  callState := .onHook
  dialTone := 0#8
  timerPend := 0#2
  gz := Vector.replicate _ Goertzel.reset
  iq := Vector.replicate _ IqTable.reset
  codec := Vector.replicate _ Codec.reset
  tone := ToneTx.reset
  det := Detector.reset
  fsk := FskRegs.reset
  chan := Vector.replicate _ FskChannel.reset
  txq := TxQueue.reset
  v8 := V8Regs.reset
  pending := []
  resp := Response.empty

/-- Why a step stops with a fault. The block itself has no fault (`spec/60_exceptions.md` R355). -/
inductive Fault where
  /-- Raised by `step` alone, for a frame whose command word is legal and whose number of argument or sample words is not the
  one `spec/30_encoding.md` R101 fixes: no operation of the spec (log entry 3). Safe: the model stops where the spec gives no
  effect. -/
  | wordCount
  deriving DecidableEq, Repr

/-- Why the model refuses an instruction. -/
inductive Refusal where
  /-- Answered by `exec` for an instruction that has no meaning in the model; no arm answers it. Safe: the model stops. -/
  | notModelled (mnemonic : String)
  deriving DecidableEq, Repr

end Sys2Proof.Machine
end

