-- ==== Sys2Proof/Machine/Ops.lean ====
section
/-! DEFINITION. The named operations over memories, register arrays, the response and the queue, and the integer forms of
`spec/00_scope.md` R10. The block takes no exception and returns from none (`spec/60_exceptions.md` R355, R367, R368): the shared
operations in that place are `answerFail` and `answerIllegal`, the two statuses that change nothing (R361). -/

namespace Sys2Proof.Machine

/-! ### Integers (`spec/00_scope.md` R10) -/

/-- `a >> n`, the arithmetic (floor) shift of a mathematical integer. -/
def asr (a : Int) (n : Nat) : Int := a / 2 ^ n

/-- `sext_64(v)`, written `wrap_s64(v)` by the rules (`spec/40_dsp_primitives.md` R137). -/
def wrapS64 (v : Int) : Int := (BitVec.ofInt 64 v).toInt

/-- `sext_32(v)` as the 32-bit word that carries it: a result or an output sample. -/
def word32 (v : Int) : Word := BitVec.ofInt 32 v

/-- The low word of a 64-bit value (`spec/20_memory.md` R64). -/
def lowWord (v : BitVec 64) : Word := v.extractLsb' 0 32

/-- The high word of a 64-bit value (`spec/20_memory.md` R64). -/
def highWord (v : BitVec 64) : Word := v.extractLsb' 32 32

/-- A bit or flag as a result word: "A bit or a flag result is 0 or 1" (`spec/30_encoding.md` R96). -/
def bitWord (b : Bool) : Word := if b then 1#32 else 0#32

/-! ### Word memories (`spec/20_memory.md` R60, R61) -/

/-- `MemRead(M, a)`: an address that is not listed reads 0, the reset content of every RAM word (`spec/10_state.md` R56). -/
def ramRead {w : Nat} : Ram w → Nat → BitVec w
  | [], _ => 0#w
  | (b, v) :: rest, a => if b = a then v else ramRead rest a

/-- The listed entries of the words `vs` stored from address `a` on: a word 0 is not listed. -/
def ramEntries {w : Nat} : Nat → List (BitVec w) → Ram w
  | _, [] => []
  | a, v :: vs => if v = 0#w then ramEntries (a + 1) vs else (a, v) :: ramEntries (a + 1) vs

/-- Store the words `vs` at `base, base + 1, ...`; every other word keeps its content. -/
def ramFill {w : Nat} (m : Ram w) (base : Nat) (vs : List (BitVec w)) : Ram w :=
  m.filter (fun e => decide (e.1 < base)) ++ ramEntries base vs ++ m.filter (fun e => decide (base + vs.length ≤ e.1))

/-- `MemWrite(M, a, v)` (R60). -/
def ramWrite {w : Nat} (m : Ram w) (a : Nat) (v : BitVec w) : Ram w := ramFill m a [v]

/-- The first `n` words of a memory. -/
def ramTake {w : Nat} (m : Ram w) (n : Nat) : List (BitVec w) := (List.range n).map (ramRead m)

/-- The canonical form from address `lo` on: addresses strictly rising and below `size`, no word 0. -/
def ramWfFrom {w : Nat} (size : Nat) : Nat → Ram w → Bool
  | _, [] => true
  | lo, (a, v) :: rest => decide (lo ≤ a) && decide (a < size) && decide (v ≠ 0#w) && ramWfFrom size (a + 1) rest

/-- The canonical form of a memory of `size` words. -/
def ramWf {w : Nat} (size : Nat) (m : Ram w) : Bool := ramWfFrom size 0 m

/-! ### Register arrays. An index outside the array is never used by a rule; there a read gives the reset value and a write
does nothing (log entry 8). -/

/-- Element `i` of a register array, `d` outside it. -/
def vget {α : Type} {n : Nat} (v : Vector α n) (d : α) (i : Nat) : α := (v[i]?).getD d

/-- The array with element `i` replaced. -/
def vset {α : Type} {n : Nat} (v : Vector α n) (i : Nat) (x : α) : Vector α n := v.setIfInBounds i x

/-- The array whose element `i` is `f i`. -/
def vecOf {α : Type} (n : Nat) (f : Nat → α) : Vector α n := ⟨⟨(List.range n).map f⟩, by simp⟩

/-- `GZ[u]`. -/
def State.gzAt (s : State) (u : Nat) : Goertzel := vget s.gz Goertzel.reset u

/-- `GZ[u] <- g`. -/
def State.setGz (s : State) (u : Nat) (g : Goertzel) : State := { s with gz := vset s.gz u g }

/-- `IQ[t]`. -/
def State.iqAt (s : State) (t : Nat) : IqTable := vget s.iq IqTable.reset t

/-- `IQ[t] <- x`. -/
def State.setIq (s : State) (t : Nat) (x : IqTable) : State := { s with iq := vset s.iq t x }

/-- `CODEC[k]`. -/
def State.codecAt (s : State) (k : Nat) : Codec := vget s.codec Codec.reset k

/-- `CODEC[k] <- c`. -/
def State.setCodec (s : State) (k : Nat) (c : Codec) : State := { s with codec := vset s.codec k c }

/-- The registers of FSK channel `c`. -/
def State.chanAt (s : State) (c : Nat) : FskChannel := vget s.chan FskChannel.reset c

/-- The registers of FSK channel `c`, replaced. -/
def State.setChan (s : State) (c : Nat) (x : FskChannel) : State := { s with chan := vset s.chan c x }

/-! ### Responses (`spec/30_encoding.md` R94 to R98) -/

/-- What a meaning answers. -/
abbrev Result := Host.Outcome State Fault Refusal

/-- The start of an operation: an empty response to emit into. -/
def State.begin (s : State) : State := { s with resp := Response.empty }

/-- `emit EV(...)` (R98): one event word appended to the response of the operation in progress. -/
def State.emit (s : State) (e : Event) : State := { s with resp := { s.resp with events := s.resp.events ++ [e] } }

/-- The state with the response `OK`, the result words, the output samples and the events emitted so far. -/
def State.ok (s : State) (results : List Word) (samples : List Word) : State :=
  { s with resp := ⟨some .ok, results, samples, s.resp.events⟩ }

/-- The state with the response `FAIL`: "no register, no memory word, no event, no result word, no output sample" (R361). -/
def State.failed (s : State) : State := { s with resp := ⟨some .fail, [], [], []⟩ }

/-- The state with the response `ILLEGAL` (R93, R361). -/
def State.illegal (s : State) : State := { s with resp := ⟨some .illegal, [], [], []⟩ }

/-- The operation ran to completion: status `OK`. -/
def answerOk (s : State) (results : List Word) (samples : List Word) : Result := .next (s.ok results samples)

/-- The operation is refused for a semantic reason: status `FAIL`. -/
def answerFail (s : State) : Result := .next s.failed

/-- The command word is malformed: status `ILLEGAL`. -/
def answerIllegal (s : State) : Result := .next s.illegal

/-- `Y[i] <- f()` for `i` in `0 .. n-1`, in order. -/
def synth (f : State → State × Word) : Nat → State → State × List Word
  | 0, s => (s, [])
  | n + 1, s =>
    let a := f s
    let b := synth f n a.1
    (b.1, a.2 :: b.2)

/-! ### The transmit byte queue (`spec/20_memory.md` R81, `spec/43_fsk_engine.md` R242) -/

/-- `txq_put(B)`: `none` when the queue is full. -/
def txqPut (b : Byte) (s : State) : Option State :=
  if s.txq.count.toNat = Config.txqCap then none
  else
    some { s with txq :=
      { s.txq with
        mem := ramWrite s.txq.mem ((s.txq.head.toNat + s.txq.count.toNat) % Config.txqCap) b
        count := s.txq.count + 1#7 } }

/-- The oldest byte of the queue, and the queue without it. -/
def txqTake (s : State) : State × Byte :=
  ({ s with txq :=
      { s.txq with
        head := BitVec.ofNat 6 ((s.txq.head.toNat + 1) % Config.txqCap)
        count := s.txq.count - 1#7 } },
   ramRead s.txq.mem s.txq.head.toNat)

/-- The queue emptied, its content left as it is. -/
def txqClear (s : State) : State := { s with txq := { s.txq with head := 0#6, count := 0#7 } }

/-! ### Timers (`spec/46_facade_host.md` R336) -/

/-- The bit of `TIMER_PEND` that belongs to a timer (`spec/10_state.md` R52). -/
def timerBit (w : Timer) : BitVec 2 :=
  match w with
  | .postDial => 0b01#2
  | .preData => 0b10#2

/-- `TIMER_PEND[w] = 1`. -/
def State.timerPending (s : State) (w : Timer) : Bool := decide (s.timerPend &&& timerBit w ≠ 0#2)

/-- `TIMER_PEND[w] <- 0`. -/
def State.clearTimer (s : State) (w : Timer) : State := { s with timerPend := s.timerPend &&& ~~~ timerBit w }

/-- `request_timer(w)`: `TIMER_PEND[w] <- 1; emit EV_TIMER_REQ(w, 0)`. -/
def requestTimer (w : Timer) (s : State) : State :=
  State.emit { s with timerPend := s.timerPend ||| timerBit w } (.timerReq w)

/-! ### Re-initialisation (`spec/45_control.md` R311) -/

/-- Every register and every RAM word at its reset value; the two port fields, which belong to the host's side, are kept. -/
def resetBlock (s : State) : State := { State.reset with pending := s.pending, resp := s.resp }

end Sys2Proof.Machine
end

