-- ==== Sys2Proof/Machine/Flags.lean ====
section
/-! DEFINITION. The codes of the enumerations, of the status word and of the event words (`spec/30_encoding.md` R95, R99, R108,
R109, R112). The block has no condition codes (`spec/10_state.md` R22): these words play the part of flags. -/

namespace Sys2Proof.Machine

/-- Status codes (R95). -/
def statusCode (st : Status) : Word :=
  match st with
  | .ok => 0#32
  | .fail => 1#32
  | .illegal => 2#32

/-- V.8 phase codes (R108). -/
def phaseCode (p : Phase) : BitVec 4 :=
  match p with
  | .idle => 0#4
  | .txAns => 1#4
  | .rxAns => 2#4
  | .sentAnsam => 3#4
  | .sentCm => 4#4
  | .waitCm => 5#4
  | .sentJm => 6#4
  | .negotiated => 7#4
  | .stopped => 8#4

/-- Call-state codes (R109). -/
def callStateCode (c : CallState) : BitVec 3 :=
  match c with
  | .onHook => 0#3
  | .offHookIdle => 1#3
  | .dialing => 2#3
  | .v8 => 3#3
  | .data => 4#3

/-- Frame-parser state codes (R109). -/
def parserCode (p : ParserState) : BitVec 2 :=
  match p with
  | .idle => 0#2
  | .data => 1#2
  | .stop => 2#2

/-- Frame bit-order codes (R109). -/
def orderCode (o : BitOrder) : BitVec 1 :=
  match o with
  | .lsbFirst => 0#1
  | .msbFirst => 1#1

/-- V.8 role codes (R109). -/
def roleCode (r : Role) : BitVec 1 :=
  match r with
  | .send => 0#1
  | .listen => 1#1

/-- Timer numbers (R109). -/
def timerCode (w : Timer) : BitVec 8 :=
  match w with
  | .postDial => 0#8
  | .preData => 1#8

/-- Tone classification (R109), result `R0` of `DET_SINGLE` and `DET_DUAL`. -/
inductive ToneClass where
  /-- "no/insufficient match" -/
  | none
  /-- "insufficient samples yet" -/
  | inProgress
  /-- "first block meeting the minimum-duration threshold for the winning tone" -/
  | new
  /-- "same tone, still within its play-time ceiling" -/
  | continuing
  /-- "tone exceeded its maximum duration" -/
  | noneWithReset
  deriving DecidableEq, Repr

/-- Tone classification codes (R109). -/
def classCode (c : ToneClass) : Word :=
  match c with
  | .none => 0#32
  | .inProgress => 1#32
  | .new => 2#32
  | .continuing => 3#32
  | .noneWithReset => 4#32

/-- The event word (R99): `code = EW[31:24]`, `a = EW[23:16]`, `b = EW[15:0]`. -/
def eventWord (e : Event) : Word :=
  match e with
  | .toneDone id => 0x01#8 ++ id ++ 0#16
  | .v8State old new => 0x02#8 ++ (phaseCode old).setWidth 8 ++ (phaseCode new).setWidth 16
  | .rxByte b => 0x03#8 ++ 0#8 ++ b.setWidth 16
  | .timerReq w => 0x04#8 ++ timerCode w ++ 0#16

/-- The response as the words the host sees, in order (R94): status, results, output samples, events. -/
def responseWords (r : Response) : List Word :=
  match r.status with
  | Option.none => []
  | some st => statusCode st :: (r.results ++ r.samples ++ r.events.map eventWord)

end Sys2Proof.Machine
end

