-- ==== Sys2Proof/Machine/Operands.lean ====
section
/-! DEFINITION. What the operand words mean (`spec/30_encoding.md` R92): tone ids, scheme ids, capability items, sample words and
durations. -/

namespace Sys2Proof.Machine

/-- An input sample word as the signed integer it stands for (`spec/20_memory.md` R84). -/
def sampleInt (x : Word) : Int := x.toInt

/-- `tone_valid(id)` (`spec/42_tone_engine.md` R180): `id <= 0x1F and desc(id).f1 != 0`. -/
def toneValid (id : Nat) : Bool := decide (id ≤ 0x1F) && decide ((toneDesc id).f1 ≠ 0)

/-- The successor override of `TONE_START` is one the operation takes (`spec/42_tone_engine.md` R190). -/
def successorOk (so : BitVec 16) : Bool :=
  decide (so = 0xFFFF#16) || decide (so = 0#16) || (decide (so.toNat ≤ 0xFF) && toneValid so.toNat)

/-- `ms_to_samples(ms) = (ms * SRATE) // 1000` (`spec/00_scope.md` R13), a u32 (R14; log entry 7). -/
def msToSamples (srate : Word) (ms : Nat) : Word := BitVec.ofNat 32 ((ms * srate.toNat) / 1000)

/-- `symlen(baud) = floor(100 * SRATE / baud)`, baud in cBd (`spec/43_fsk_engine.md` R221). -/
def symlen (srate : Word) (baud : Nat) : Nat := (100 * srate.toNat) / baud

/-- A channel whose symbol length fits the ring (R221). -/
def symlenUsable (srate : Word) (baud : Nat) : Bool :=
  decide (1 ≤ symlen srate baud) && decide (symlen srate baud ≤ Config.ringSize)

/-- `sch_exists(id)` (`spec/43_fsk_engine.md` R220): `1 <= id <= 7 and sch(id).nch != 0`. -/
def schemeExists (id : Nat) : Bool := decide (1 ≤ id) && decide (id ≤ 7) && decide ((schemeDesc id).nch ≠ 0)

/-- `scheme_usable(id)` (`spec/43_fsk_engine.md` R222). -/
def schemeUsable (srate : Word) (id : Nat) : Bool :=
  schemeExists id &&
    (List.range (schemeDesc id).nch).all (fun c => symlenUsable srate ((schemeDesc id).chan c).baud)

/-- `item_valid(i)` (`spec/44_v8_engine.md` R267): the 51 items of `spec/30_encoding.md` R110. -/
def itemValid (i : Byte) : Bool :=
  Config.params.itemRanges.any (fun r => decide (r.1 ≤ i.toNat ∧ i.toNat ≤ r.2))

end Sys2Proof.Machine
end

