-- ==== Sys2Proof/Machine/Dsp.lean ====
section
/-! DEFINITION. The DSP primitives and the operations 0x10 to 0x17 (`spec/40_dsp_primitives.md`). -/

namespace Sys2Proof.Machine

/-! ### Phase accumulator (R130 to R134) -/

/-- `phase_increment(f, fs)`, `f` in cHz, `fs` in Hz (R130). -/
def phaseIncrement (f fs : Nat) : Word := BitVec.ofNat 32 ((f * 2 ^ 32) / (100 * fs))

/-- `sine(ph)`: a shift and a mask, never interpolated (R132). -/
def sine (ph : Word) : Int := sineRom ((ph.toNat >>> Config.tableShift) % Config.tableSize)

/-- `cosine(ph) = sine(ph + QUARTER)` (R133). -/
def cosine (ph : Word) : Int := sine (ph + Config.quarter)

/-! ### Goertzel units (R135 to R140) -/

/-- `goertzel_coeff(f, fs, n)` (R135). -/
def goertzelCoeff (f fs n : Nat) : Int :=
  let k := (2 * n * f + 100 * fs) / (200 * fs)
  2 * cosine (BitVec.ofNat 32 ((k * 2 ^ 32) / n))

/-- `gz_init(u, f, n)` (R136). -/
def gzInit (u : Nat) (f n : Nat) (s : State) : State :=
  s.setGz u
    { coeff := BitVec.ofInt 32 (goertzelCoeff f s.srate.toNat n)
      n := BitVec.ofNat 16 n
      cnt := 0#16
      s1 := 0#64
      s2 := 0#64 }

/-- The two-tap recursion of R137 on one unit. -/
def Goertzel.step (g : Goertzel) (x : Int) : Goertzel :=
  { g with
    s2 := g.s1
    s1 := BitVec.ofInt 64 (x + asr (g.coeff.toInt * g.s1.toInt) Config.frac - g.s2.toInt)
    cnt := g.cnt + 1#16 }

/-- `goertzel_step(u, x)` (R137). -/
def goertzelStep (u : Nat) (x : Int) (s : State) : State := s.setGz u ((s.gzAt u).step x)

/-- `goertzel_value(u)` of a unit (R139). -/
def Goertzel.value (g : Goertzel) : Int :=
  let s1 := g.s1.toInt
  let s2 := g.s2.toInt
  let t := asr (g.coeff.toInt * s1) Config.frac
  wrapS64 (s1 * s1 + s2 * s2 - t * s2)

/-- Count and taps to 0, coefficient and block size kept (R140, `spec/42_tone_engine.md` R201). -/
def Goertzel.clear (g : Goertzel) : Goertzel := { g with cnt := 0#16, s1 := 0#64, s2 := 0#64 }

/-- `gz_acc` (R138): the state, and how many samples were taken. -/
def gzAcc (u : Nat) : List Word → State → State × Nat
  | [], s => (s, 0)
  | x :: xs, s =>
    if (s.gzAt u).cnt.toNat < (s.gzAt u).n.toNat then
      let r := gzAcc u xs (goertzelStep u (sampleInt x) s)
      (r.1, r.2 + 1)
    else (s, 0)

/-- The block of a unit is complete: `GZ_CNT >= GZ_N` (R138, R140). -/
def Goertzel.done (g : Goertzel) : Bool := decide (g.n.toNat ≤ g.cnt.toNat)

/-- The side effect of `gz_power` (R140). -/
def gzPowerClear (u : Nat) (s : State) : State :=
  if (s.gzAt u).done then s.setGz u (s.gzAt u).clear else s

/-! ### I/Q tables and correlation (R141 to R143) -/

/-- `n * inc` modulo the phase domain (R141). -/
def iqPhase (inc : Word) (n : Nat) : Word := BitVec.ofNat 32 (n * inc.toNat)

/-- `build_iq(t, f, fs, L)` on one table (R141). -/
def IqTable.build (x : IqTable) (f fs len : Nat) : IqTable :=
  let inc := phaseIncrement f fs
  { len := BitVec.ofNat 16 len
    i := ramFill x.i 0 ((List.range len).map (fun n => BitVec.ofInt 16 (cosine (iqPhase inc n))))
    q := ramFill x.q 0 ((List.range len).map (fun n => BitVec.ofInt 16 (sine (iqPhase inc n)))) }

/-- `build_iq(t, f, SRATE, L)`. -/
def buildIq (t : Nat) (f len : Nat) (s : State) : State := s.setIq t ((s.iqAt t).build f s.srate.toNat len)

/-- `circular_correlate(ref, L, ring, start, mask)` with `mask = RING_MASK` (R143). -/
def circularCorrelate (ref : Nat → Int) (len : Nat) (ring : Nat → Int) (start : Nat) : Int :=
  wrapS64 (asr ((List.range len).foldl (fun acc i => acc + ref i * ring ((start + i) % Config.ringSize)) 0) Config.frac)

/-- Component `q` of table `t` as a reference waveform. -/
def IqTable.ref (x : IqTable) (q : Component) (n : Nat) : Int :=
  match q with
  | .inPhase => (ramRead x.i n).toInt
  | .quadrature => (ramRead x.q n).toInt

/-- `RING[c]` as signed words. -/
def FskChannel.ringAt (x : FskChannel) (i : Nat) : Int := (ramRead x.ring i).toInt

/-! ### Operations -/

/-- `PHASE_INC ; f` (R144). -/
def execPhaseInc (f : Word) (s : State) : Result :=
  answerOk s.begin [phaseIncrement f.toNat s.srate.toNat] []

/-- `PHASE_INV` (R145, R131). -/
def execPhaseInv (s : State) : Result := answerOk s.begin [Config.half] []

/-- `SINE ; ph` (R146). -/
def execSine (ph : Word) (s : State) : Result := answerOk s.begin [word32 (sine ph)] []

/-- `GZ_INIT u, n ; f` (R147). -/
def execGzInit (u : Fin 16) (n : BitVec 16) (f : Word) (s : State) : Result :=
  if n = 0#16 then answerFail s
  else
    let s1 := gzInit u.val f.toNat n.toNat s.begin
    answerOk s1 [(s1.gzAt u.val).coeff] []

/-- `GZ_ACC u, count ; ; X` (R148). -/
def execGzAcc (u : Fin 16) (xs : List Word) (s : State) : Result :=
  let r := gzAcc u.val xs s.begin
  answerOk r.1 [bitWord (r.1.gzAt u.val).done, BitVec.ofNat 32 r.2] []

/-- `GZ_POWER u` (R149). -/
def execGzPower (u : Fin 16) (s : State) : Result :=
  let p := BitVec.ofInt 64 (s.gzAt u.val).value
  answerOk (gzPowerClear u.val s.begin) [lowWord p, highWord p] []

/-- `IQ_BUILD t, L ; f` (R150). -/
def execIqBuild (t : Fin 4) (len : BitVec 16) (f : Word) (s : State) : Result :=
  if len.toNat = 0 ∨ Config.ringSize < len.toNat then answerFail s
  else answerOk (buildIq t.val f.toNat len.toNat s.begin) [] []

/-- `CORRELATE s ; start` (R151). -/
def execCorrelate (t : Fin 4) (q : Component) (start : Word) (s : State) : Result :=
  let x := s.iqAt t.val
  let v := BitVec.ofInt 64
    (circularCorrelate (x.ref q) x.len.toNat (s.chanAt (t.val / 2)).ringAt (start.toNat % Config.ringSize))
  answerOk s.begin [lowWord v, highWord v] []

end Sys2Proof.Machine
end

