-- ==== Sys2Proof/Machine/Control.lean ====
section
/-! DEFINITION. The control and inspection operations 0x00 to 0x05 (`spec/45_control.md`). -/

namespace Sys2Proof.Machine

/-- A row of the register table (R316): the id, how many indices `sel` may take, and the value of the register as the 32-bit
result word (R314). -/
structure RegRow where
  id : Nat
  range : Nat
  value : State → Nat → Word

/-- An unsigned register as a result word: zero-extended (R314). -/
def ureg {w : Nat} (v : BitVec w) : Word := v.setWidth 32

/-- Global, Goertzel, I/Q and codec registers (R316). -/
def regRowsA : List RegRow :=
  [⟨0x0000, 1, fun s _ => s.srate⟩,
   ⟨0x0001, 1, fun s _ => ureg (callStateCode s.callState)⟩,
   ⟨0x0002, 1, fun s _ => ureg s.dialTone⟩,
   ⟨0x0003, 1, fun s _ => ureg s.timerPend⟩,
   ⟨0x0100, 16, fun s u => (s.gzAt u).coeff⟩,
   ⟨0x0101, 16, fun s u => ureg (s.gzAt u).n⟩,
   ⟨0x0102, 16, fun s u => ureg (s.gzAt u).cnt⟩,
   ⟨0x0103, 16, fun s u => lowWord (s.gzAt u).s1⟩,
   ⟨0x0104, 16, fun s u => highWord (s.gzAt u).s1⟩,
   ⟨0x0105, 16, fun s u => lowWord (s.gzAt u).s2⟩,
   ⟨0x0106, 16, fun s u => highWord (s.gzAt u).s2⟩,
   ⟨0x0110, 4, fun s t => ureg (s.iqAt t).len⟩,
   ⟨0x0200, 3, fun s k => ureg (orderCode (s.codecAt k).order)⟩,
   ⟨0x0201, 3, fun s k => ureg (s.codecAt k).bframe⟩,
   ⟨0x0202, 3, fun s k => ureg (s.codecAt k).bn⟩,
   ⟨0x0203, 3, fun s k => ureg (parserCode (s.codecAt k).pst)⟩,
   ⟨0x0204, 3, fun s k => ureg (s.codecAt k).pk⟩,
   ⟨0x0205, 3, fun s k => ureg (s.codecAt k).pacc⟩]

/-- Tone transmitter and classifier registers (R316). -/
def regRowsB : List RegRow :=
  [⟨0x0300, 1, fun s _ => bitWord s.tone.active⟩,
   ⟨0x0301, 1, fun s _ => ureg s.tone.id⟩,
   ⟨0x0302, 1, fun s _ => s.tone.inc1⟩,
   ⟨0x0303, 1, fun s _ => s.tone.inc2⟩,
   ⟨0x0304, 1, fun s _ => bitWord s.tone.has2⟩,
   ⟨0x0305, 1, fun s _ => s.tone.ph1⟩,
   ⟨0x0306, 1, fun s _ => s.tone.ph2⟩,
   ⟨0x0307, 1, fun s _ => s.tone.amInc⟩,
   ⟨0x0308, 1, fun s _ => s.tone.amPh⟩,
   ⟨0x0309, 1, fun s _ => ureg s.tone.amMid⟩,
   ⟨0x030A, 1, fun s _ => ureg s.tone.amHalf⟩,
   ⟨0x030B, 1, fun s _ => s.tone.revInt⟩,
   ⟨0x030C, 1, fun s _ => s.tone.revLeft⟩,
   ⟨0x030D, 1, fun s _ => bitWord s.tone.finite⟩,
   ⟨0x030E, 1, fun s _ => s.tone.left⟩,
   ⟨0x030F, 1, fun s _ => ureg s.tone.succ⟩,
   ⟨0x0310, 1, fun s _ => s.tone.gain⟩,
   ⟨0x0400, 1, fun s _ => ureg s.det.n⟩,
   ⟨0x0401, 1, fun s _ => ureg s.det.na⟩,
   ⟨0x0402, 1, fun s _ => ureg s.det.nb⟩,
   ⟨0x0403, 1, fun s _ => ureg s.det.fill⟩,
   ⟨0x0404, 1, fun s _ => ureg s.det.cand⟩,
   ⟨0x0405, 1, fun s _ => s.det.hits⟩,
   ⟨0x0410, 16, fun s i => ureg (vget s.det.candId 0#8 i)⟩,
   ⟨0x0411, 8, fun s j => vget s.det.fa 0#32 j⟩,
   ⟨0x0412, 8, fun s j => vget s.det.fb 0#32 j⟩]

/-- FSK engine and V.8 engine registers (R316). -/
def regRowsC : List RegRow :=
  [⟨0x0500, 1, fun s _ => ureg s.fsk.scheme⟩,
   ⟨0x0501, 1, fun s _ => ureg s.fsk.nch⟩,
   ⟨0x0502, 1, fun s _ => ureg s.fsk.txch⟩,
   ⟨0x0503, 1, fun s _ => ureg s.fsk.rxch⟩,
   ⟨0x0504, 1, fun s _ => bitWord s.fsk.txen⟩,
   ⟨0x0510, 2, fun s c => (s.chanAt c).inc0⟩,
   ⟨0x0511, 2, fun s c => (s.chanAt c).inc1⟩,
   ⟨0x0512, 2, fun s c => (s.chanAt c).binc⟩,
   ⟨0x0513, 2, fun s c => ureg (s.chanAt c).symlen⟩,
   ⟨0x0514, 2, fun s c => ureg (s.chanAt c).shift⟩,
   ⟨0x0520, 2, fun s c => (s.chanAt c).modPh⟩,
   ⟨0x0521, 2, fun s c => (s.chanAt c).modClk⟩,
   ⟨0x0522, 2, fun s c => bitWord (s.chanAt c).modBit⟩,
   ⟨0x0530, 2, fun s c => (s.chanAt c).demClk⟩,
   ⟨0x0531, 2, fun s c => bitWord (s.chanAt c).demEst⟩,
   ⟨0x0532, 2, fun s c => ureg (s.chanAt c).demWidx⟩,
   ⟨0x0540, 1, fun s _ => ureg s.txq.count⟩,
   ⟨0x0541, 1, fun s _ => ureg s.txq.head⟩,
   ⟨0x0600, 1, fun s _ => ureg (phaseCode s.v8.phase)⟩,
   ⟨0x0601, 1, fun s _ => ureg (roleCode s.v8.role)⟩,
   ⟨0x0602, 1, fun s _ => ureg s.v8.ntx⟩,
   ⟨0x0603, 1, fun s _ => ureg s.v8.nrx⟩,
   ⟨0x0604, 1, fun s _ => ureg s.v8.rxlen⟩,
   ⟨0x0605, 1, fun s _ => s.v8.ck⟩,
   ⟨0x0606, 1, fun s _ => bitWord s.v8.ckv⟩,
   ⟨0x0607, 1, fun s _ => ureg s.v8.outlen⟩,
   ⟨0x0608, 1, fun s _ => ureg s.v8.cursor⟩,
   ⟨0x0609, 1, fun s _ => ureg s.v8.sync⟩,
   ⟨0x060A, 1, fun s _ => ureg s.v8.zrun⟩]

/-- The whole register table (R316). -/
def regTable : List RegRow := regRowsA ++ regRowsB ++ regRowsC

/-- The value of register `id` at `index`; `none` for an id or index that names nothing (R314). -/
def readReg (id index : Nat) (s : State) : Option Word :=
  match regTable.find? (fun r => r.id == id) with
  | none => none
  | some r => if index < r.range then some (r.value s index) else none

/-- The size in words of memory `id`; 0 for an id that names none (`spec/20_memory.md` R61, R62). -/
def memSize (id : Nat) : Nat :=
  match id with
  | 0 => 1024
  | 1 => 2048
  | 2 => 2048
  | 3 => 1024
  | 4 => 64
  | 5 => 16
  | 6 => 16
  | 7 => 16
  | 8 => 16
  | 9 => 512
  | 10 => 128
  | _ => 0

/-- Word `a` of memory `id`, sign-extended for the signed memories, zero-extended for the others (R315, `spec/20_memory.md`
R62). -/
def memWord (id a : Nat) (s : State) : Word :=
  match id with
  | 0 => word32 (sineRom a)
  | 1 => (ramRead (s.iqAt (a / 512)).i (a % 512)).signExtend 32
  | 2 => (ramRead (s.iqAt (a / 512)).q (a % 512)).signExtend 32
  | 3 => ramRead (s.chanAt (a / 512)).ring (a % 512)
  | 4 => ureg (ramRead s.txq.mem a)
  | 5 => ureg (ramRead s.v8.txcaps a)
  | 6 => ureg (ramRead s.v8.rxcaps a)
  | 7 => ureg (ramRead s.v8.rxbuf a)
  | 8 => ureg (ramRead s.v8.out a)
  | 9 => toneRomWord (a / 16) (a % 16)
  | 10 => fskRomWord (a / 16) (a % 16)
  | _ => 0#32

/-- `MemRead(mem, addr)` for the inspection window (R315). -/
def readMem (id a : Nat) (s : State) : Option Word := if a < memSize id then some (memWord id a s) else none

/-! ### Operations -/

/-- `NOP` (R310). -/
def execNop (s : State) : Result := answerOk s.begin [] []

/-- `RESET` (R311). -/
def execReset (s : State) : Result := answerOk (resetBlock s.begin) [] []

/-- `SET_RATE ; hz` (R312). -/
def execSetRate (hz : Word) (s : State) : Result :=
  if hz = 0#32 then answerFail s else answerOk { resetBlock s.begin with srate := hz } [] []

/-- `GET_RATE` (R313). -/
def execGetRate (s : State) : Result := answerOk s.begin [s.srate] []

/-- `RD_REG index, id` (R314). -/
def execRdReg (index : BitVec 8) (id : BitVec 16) (s : State) : Result :=
  match readReg id.toNat index.toNat s with
  | none => answerFail s
  | some v => answerOk s.begin [v] []

/-- `RD_MEM mem, addr` (R315). -/
def execRdMem (mem : BitVec 8) (addr : BitVec 16) (s : State) : Result :=
  match readMem mem.toNat addr.toNat s with
  | none => answerFail s
  | some v => answerOk s.begin [v] []

end Sys2Proof.Machine
end

