-- ==== Sys2Proof/Machine/Frame.lean ====
section
/-! DEFINITION. The frame codec and the operations 0x20 to 0x24 (`spec/41_frame_codec.md`). Instance 0 is LINE, 1 DTE, 2 V8. -/

namespace Sys2Proof.Machine

/-- The i-th data bit of `B` in time order under order `o` (R161, R164). -/
def dataBitPos (o : BitOrder) (i : Nat) : Nat :=
  match o with
  | .lsbFirst => i
  | .msbFirst => 7 - i

/-- `frame_bits(B, o)` (R161): the i-th data bit in time order goes to bit `8 - i`, the stop bit 1 to bit 0. -/
def frameBits (b : Byte) (o : BitOrder) : BitVec 10 :=
  (List.range 8).foldl
    (fun v i => v ||| ((if b.getLsbD (dataBitPos o i) then 1#10 else 0#10) <<< (8 - i))) 0#10 ||| 1#10

/-- `frm_load` on one codec (R162): `none` while a frame is still going out. -/
def Codec.load (c : Codec) (b : Byte) : Option Codec :=
  if c.bn ≠ 0#4 then none else some { c with bframe := frameBits b c.order, bn := 10#4 }

/-- `frm_pop` on one codec (R163). -/
def Codec.pop (c : Codec) : Codec × Bool :=
  if c.bn = 0#4 then (c, true) else ({ c with bn := c.bn - 1#4 }, c.bframe.getLsbD (c.bn.toNat - 1))

/-- `frm_push` on one codec (R164): the byte when the bit completes a well-formed frame; a frame whose stop bit is 0 is
dropped (R165). -/
def Codec.push (c : Codec) (b : Bool) : Codec × Option Byte :=
  match c.pst with
  | .idle => (if b then c else { c with pst := .data, pk := 0#3, pacc := 0#8 }, none)
  | .data =>
    let acc := c.pacc ||| ((if b then 1#8 else 0#8) <<< dataBitPos c.order c.pk.toNat)
    if c.pk = 7#3 then ({ c with pacc := acc, pst := .stop }, none)
    else ({ c with pacc := acc, pk := c.pk + 1#3 }, none)
  | .stop => ({ c with pst := .idle }, if b then some c.pacc else none)

/-- `frm_reset` on one codec (R166): `FRM_ORDER` is kept. -/
def Codec.clear (c : Codec) : Codec := { Codec.reset with order := c.order }

/-- `frm_load(k, B)` (R162): `none` for the rule's false. -/
def frmLoad (k : Nat) (b : Byte) (s : State) : Option State := ((s.codecAt k).load b).map (s.setCodec k)

/-- `frm_pop(k)` (R163). -/
def frmPop (k : Nat) (s : State) : State × Bool :=
  let r := (s.codecAt k).pop
  (s.setCodec k r.1, r.2)

/-- `frm_push(k, b)` (R164). -/
def frmPush (k : Nat) (b : Bool) (s : State) : State × Option Byte :=
  let r := (s.codecAt k).push b
  (s.setCodec k r.1, r.2)

/-- `frm_reset(k)` (R166). -/
def frmReset (k : Nat) (s : State) : State := s.setCodec k (s.codecAt k).clear

/-- The instance numbers of R160. -/
def lineCodec : Nat := 0

def dteCodec : Nat := 1

def v8Codec : Nat := 2

/-! ### Operations -/

/-- `FRM_CFG k, o` (R167). -/
def execFrmCfg (k : Fin 3) (o : BitOrder) (s : State) : Result :=
  answerOk (s.begin.setCodec k.val { s.codecAt k.val with order := o }) [] []

/-- `FRM_LOAD k, B` (R168). -/
def execFrmLoad (k : Fin 3) (b : Byte) (s : State) : Result :=
  match frmLoad k.val b s.begin with
  | none => answerFail s
  | some s1 => answerOk s1 [] []

/-- `FRM_POP k` (R169). -/
def execFrmPop (k : Fin 3) (s : State) : Result :=
  let r := frmPop k.val s.begin
  answerOk r.1 [bitWord r.2] []

/-- `FRM_PUSH k, b` (R170). -/
def execFrmPush (k : Fin 3) (b : Bool) (s : State) : Result :=
  let r := frmPush k.val b s.begin
  match r.2 with
  | some v => answerOk r.1 [1#32, v.setWidth 32] []
  | none => answerOk r.1 [0#32, 0#32] []

/-- `FRM_RESET k` (R171). -/
def execFrmReset (k : Fin 3) (s : State) : Result := answerOk (frmReset k.val s.begin) [] []

end Sys2Proof.Machine
end

