-- ==== Sys2Proof/Machine/Fsk.lean ====
section
/-! DEFINITION. The FSK engine, the data path and the operations 0x40 to 0x48 (`spec/43_fsk_engine.md`). -/

namespace Sys2Proof.Machine

/-! ### Scheme selection (R220 to R224) -/

/-- `IQ_LEN[t] <- 0`, the table's content left as it is (R223). -/
def clearIqLen (s : State) (t : Nat) : State := s.setIq t { s.iqAt t with len := 0#16 }

/-- `fsk_clear()` (R223): `FSK_TXEN` is not touched. -/
def fskClear (s : State) : State :=
  let s1 := { s with
    fsk := { FskRegs.reset with txen := s.fsk.txen }
    chan := Vector.replicate _ FskChannel.reset }
  txqClear (frmReset lineCodec ((List.range Config.iqTables).foldl clearIqLen s1))

/-- The body of the loop of `fsk_select` for channel `c` (R224). -/
def fskSetChannel (d : SchemeDesc) (s : State) (c : Nat) : State :=
  let e := d.chan c
  let fs := s.srate.toNat
  let len := symlen s.srate e.baud
  let s1 := s.setChan c { s.chanAt c with
    inc0 := phaseIncrement e.f0 fs
    inc1 := phaseIncrement e.f1 fs
    binc := phaseIncrement e.baud fs
    symlen := BitVec.ofNat 16 len
    shift := BitVec.ofNat 4 (Nat.log2 len) }
  buildIq (2 * c + 1) e.f1 len (buildIq (2 * c) e.f0 len s1)

/-- `fsk_select(id)`, `id = 0` or a usable scheme (R224). -/
def fskSelect (id : Byte) (s : State) : State :=
  let s1 := fskClear s
  if id = 0#8 then s1
  else
    let d := schemeDesc id.toNat
    let s2 := (List.range d.nch).foldl (fskSetChannel d) s1
    { s2 with fsk := { s2.fsk with scheme := id, nch := BitVec.ofNat 2 d.nch, txch := d.defTx, rxch := d.defRx } }

/-- The three registers that the V.8 engine and the façade write after a selection (`spec/44_v8_engine.md` R276, R287). -/
def fskSetDirections (tx rx : BitVec 1) (en : Bool) (s : State) : State :=
  { s with fsk := { s.fsk with txch := tx, rxch := rx, txen := en } }

/-! ### Modulator (R230) -/

/-- `mod_sample(next_bit)` (R230). -/
def modSample (nextBit : State → State × Bool) (s : State) : State × Word :=
  if s.fsk.scheme = 0#8 ∨ s.fsk.txen = false then (s, 0#32)
  else
    let c := s.fsk.txch.toNat
    let x := s.chanAt c
    let v := sine x.modPh
    let s1 := s.setChan c { x with modPh := x.modPh + (if x.modBit then x.inc1 else x.inc0) }
    let clk := x.modClk.toNat + x.binc.toNat
    let s2 :=
      if 2 ^ 32 ≤ clk then
        let r := nextBit s1
        r.1.setChan c { r.1.chanAt c with modBit := r.2 }
      else s1
    (s2.setChan c { s2.chanAt c with modClk := BitVec.ofNat 32 clk }, word32 v)

/-! ### Demodulator (R233 to R236) -/

/-- `conf_v`, the confidence of hypothesis `v` on channel `c` over the window that starts at `st` (R233, R234). -/
def confidence (s : State) (c v : Nat) (st : Nat) : Int :=
  let x := s.chanAt c
  let t := s.iqAt (2 * c + v)
  let i := circularCorrelate (t.ref .inPhase) x.symlen.toNat x.ringAt st
  let q := circularCorrelate (t.ref .quadrature) x.symlen.toNat x.ringAt st
  wrapS64 (i * i + q * q)

/-- The new bit estimate (R235). -/
def decideBit (est : Bool) (conf0 conf1 : Int) : Bool :=
  if 0 < conf0 ∧ 0 < conf1 then
    if conf0 < conf1 then true else if conf1 < conf0 then false else est
  else est

/-- The realignment step of the symbol clock at a bit change (R236). -/
def nudge (clk : Word) : Word :=
  if clk.toNat < Config.half.toNat then clk + Config.clkNudge
  else if Config.half.toNat < clk.toNat then clk - Config.clkNudge
  else clk

/-- The sample stored in the ring and the write index advanced (R233). -/
def FskChannel.store (x : FskChannel) (v : Word) : FskChannel :=
  { x with
    ring := ramWrite x.ring x.demWidx.toNat (BitVec.ofInt 32 (asr (sampleInt v) x.shift.toNat))
    demWidx := x.demWidx + 1#9 }

/-- The index of the oldest sample of the window, `(DEM_WIDX - L) & 511` (R233). -/
def FskChannel.windowStart (x : FskChannel) : Nat := (x.demWidx - BitVec.ofNat 9 x.symlen.toNat).toNat

/-- The bit that the window of channel `c` decides for (R233 to R235). -/
def estimateBit (s : State) (c : Nat) : Bool :=
  let x := s.chanAt c
  decideBit x.demEst (confidence s c 0 x.windowStart) (confidence s c 1 x.windowStart)

/-- The receiver after a decision: the estimate, the symbol clock realigned at a bit change and advanced; with it whether the
clock wrapped, which ends a symbol (R233, R236). -/
def FskChannel.tick (x : FskChannel) (est : Bool) : FskChannel × Bool :=
  let clk := (if est = x.demEst then x.demClk else nudge x.demClk).toNat + x.binc.toNat
  ({ x with demEst := est, demClk := BitVec.ofNat 32 clk }, decide (2 ^ 32 ≤ clk))

/-- `dem_sample(x, sink)` (R233). -/
def demSample (sink : Bool → State → State) (v : Word) (s : State) : State :=
  if s.fsk.scheme = 0#8 then s
  else
    let c := s.fsk.rxch.toNat
    let s1 := s.setChan c ((s.chanAt c).store v)
    let est := estimateBit s1 c
    let r := (s1.chanAt c).tick est
    let s2 := s1.setChan c r.1
    if r.2 then sink est s2 else s2

/-- `dem_sample` over a block of samples. -/
def demBlock (sink : Bool → State → State) (xs : List Word) (s : State) : State :=
  xs.foldl (fun t x => demSample sink x t) s

/-! ### The data path (R243, R244) -/

/-- `data_pop_tx_bit()` (R243). -/
def dataPopTxBit (s : State) : State × Bool :=
  if (s.codecAt lineCodec).bn = 0#4 ∧ 0 < s.txq.count.toNat then
    let r := txqTake s
    frmPop lineCodec ((frmLoad lineCodec r.2 r.1).getD r.1)
  else frmPop lineCodec s

/-- `data_push_rx_bit(b)` (R244). -/
def dataPushRxBit (b : Bool) (s : State) : State :=
  let r := frmPush lineCodec b s
  match r.2 with
  | some v => r.1.emit (.rxByte v)
  | none => r.1

/-! ### Operations -/

/-- `FSK_SELECT id` (R225). -/
def execFskSelect (id : Byte) (s : State) : Result :=
  if id ≠ 0#8 ∧ schemeUsable s.srate id.toNat = false then answerFail s
  else answerOk (fskSelect id s.begin) [] []

/-- `FSK_TXCH c` (R226). -/
def execFskTxch (c : Fin 2) (s : State) : Result :=
  if s.fsk.nch.toNat ≤ c.val then answerFail s
  else answerOk { s.begin with fsk := { s.fsk with txch := BitVec.ofNat 1 c.val } } [] []

/-- `FSK_RXCH c` (R227). -/
def execFskRxch (c : Fin 2) (s : State) : Result :=
  if s.fsk.nch.toNat ≤ c.val then answerFail s
  else answerOk { s.begin with fsk := { s.fsk with rxch := BitVec.ofNat 1 c.val } } [] []

/-- `FSK_TXEN e` (R228). -/
def execFskTxen (e : Bool) (s : State) : Result :=
  answerOk { s.begin with fsk := { s.fsk with txen := e } } [] []

/-- `FSK_TX count` (R231). -/
def execFskTx (count : BitVec 16) (s : State) : Result :=
  let r := synth (modSample dataPopTxBit) count.toNat s.begin
  answerOk r.1 [] r.2

/-- `FSK_RX count ; ; X` (R237). -/
def execFskRx (xs : List Word) (s : State) : Result := answerOk (demBlock dataPushRxBit xs s.begin) [] []

/-- `TX_BYTE B` (R241). -/
def execTxByte (b : Byte) (s : State) : Result :=
  match txqPut b s.begin with
  | none => answerFail s
  | some s1 => answerOk s1 [] []

/-- `DATA_POP_TX_BIT` (R245). -/
def execDataPopTxBit (s : State) : Result :=
  let r := dataPopTxBit s.begin
  answerOk r.1 [bitWord r.2] []

/-- `DATA_PUSH_RX_BIT b` (R246). -/
def execDataPushRxBit (b : Bool) (s : State) : Result := answerOk (dataPushRxBit b s.begin) [] []

end Sys2Proof.Machine
end

