-- ==== Sys2Proof/Machine/Menu.lean ====
section
/-! DEFINITION. V.8 capability sets, menus, phase changes and the bit hooks (`spec/44_v8_engine.md` R262 to R284), with the
façade's negotiated hook that `v8_set` runs (`spec/46_facade_host.md` R340). -/

namespace Sys2Proof.Machine

/-! ### Phase changes (R262, `spec/46_facade_host.md` R340) -/

/-- The data scheme selected if it is usable at the rate, no scheme otherwise (`spec/46_facade_host.md` R340). -/
def selectDataScheme (s : State) : State :=
  fskSelect (if schemeUsable s.srate Config.params.dataScheme.toNat then Config.params.dataScheme else 0#8) s

/-- The channels of a two-channel scheme by role: `SEND` transmits on 1 and receives on 0, `LISTEN` keeps the scheme's
defaults (`spec/46_facade_host.md` R340, R341). -/
def dataDirections (s : State) : State :=
  if s.fsk.nch = 2#2 ∧ s.v8.role = .send then { s with fsk := { s.fsk with txch := 1#1, rxch := 0#1 } } else s

/-- `negotiated_hook()` (`spec/46_facade_host.md` R340, R341). -/
def negotiatedHook (s : State) : State :=
  if s.callState ≠ .v8 then s
  else
    let s1 := dataDirections (selectDataScheme { s with callState := .data })
    requestTimer .preData { s1 with fsk := { s1.fsk with txen := true } }

/-- `v8_set(new)` (R262). -/
def v8Set (new : Phase) (s : State) : State :=
  if s.v8.phase = new then s
  else
    let s1 := State.emit { s with v8 := { s.v8 with phase := new } } (.v8State s.v8.phase new)
    if new = .negotiated then negotiatedHook s1 else s1

/-! ### Capability sets (R268) -/

/-- The items of the transmit capability set, in insertion order. -/
def txItems (s : State) : List Byte := ramTake s.v8.txcaps s.v8.ntx.toNat

/-- The items of the receive capability set, in insertion order. -/
def rxItems (s : State) : List Byte := ramTake s.v8.rxcaps s.v8.nrx.toNat

/-- `cap_add(set, i)` accepts the item (R268). -/
def capAccepts (items : List Byte) (i : Byte) : Bool :=
  itemValid i && !(items.contains i) && decide (items.length ≠ Config.capsetCap)

/-- `cap_add(TXCAPS, i)`: `none` for the rule's false. -/
def txCapAdd (i : Byte) (s : State) : Option State :=
  if capAccepts (txItems s) i then
    some { s with v8 := { s.v8 with txcaps := ramWrite s.v8.txcaps s.v8.ntx.toNat i, ntx := s.v8.ntx + 1#5 } }
  else none

/-- `cap_add(RXCAPS, i)`, its result ignored (R272). -/
def rxCapAdd (s : State) (i : Byte) : State :=
  if capAccepts (rxItems s) i then
    { s with v8 := { s.v8 with rxcaps := ramWrite s.v8.rxcaps s.v8.nrx.toNat i, nrx := s.v8.nrx + 1#5 } }
  else s

/-! ### Menus (R270 to R273) -/

/-- `EXT = [0, 1, 2, 6, 7]` (`spec/30_encoding.md` R110). -/
def extBits : List Nat := [0, 1, 2, 6, 7]

/-- The octets of the items of `S` in `lo .. hi`, each made by `f` (R270). -/
def octetsOf (items : List Nat) (lo hi : Nat) (f : Nat → Nat) : List Byte :=
  (items.filter (fun i => decide (lo ≤ i ∧ i ≤ hi))).map (fun i => BitVec.ofNat 8 (f i))

/-- A 3-bit code in the option field of an octet with tag `tag` (R270). -/
def codeOctet (tag i : Nat) : Nat := tag ||| ((i % 8) <<< 5)

/-- One option bit of an octet with tag `tag` (R270). -/
def optionOctet (tag i : Nat) : Nat := tag ||| (1 <<< (5 + i % 16))

/-- A modulation octet: the bits of the items of `S` in `lo .. hi` merged into `base` (R270). -/
def modOctet (items : List Nat) (base lo hi : Nat) (bit : Nat → Nat) : Byte :=
  BitVec.ofNat 8
    ((items.filter (fun i => decide (lo ≤ i ∧ i ≤ hi))).foldl (fun m i => m ||| (1 <<< bit (i % 16))) base)

/-- The octets of `menu_encode(items)` (R270): at most `P_MENU_CAP` of them. -/
def menuOctets (items : List Byte) : List Byte :=
  let sorted := (items.map BitVec.toNat).insertionSort (· ≤ ·)
  (octetsOf sorted 0x10 0x17 (codeOctet 0x01) ++
    [modOctet sorted 0x05 0x20 0x22 (fun k => 5 + k),
     modOctet sorted 0x10 0x30 0x34 (fun k => extBits.getD k 0),
     modOctet sorted 0x10 0x40 0x44 (fun k => extBits.getD k 0)] ++
    octetsOf sorted 0x50 0x57 (codeOctet 0x0A) ++
    octetsOf sorted 0x60 0x62 (optionOctet 0x0D) ++
    octetsOf sorted 0x70 0x72 (optionOctet 0x07) ++
    octetsOf sorted 0x80 0x87 (codeOctet 0x0E) ++
    octetsOf sorted 0x90 0x97 (codeOctet 0x0F)).take Config.menuCap

/-- `menu_encode(items, n)`, which "Writes `V8_OUT` and `V8_OUTLEN`" (R270). -/
def menuEncode (items : List Byte) (s : State) : State :=
  let out := menuOctets items
  { s with v8 := { s.v8 with out := ramFill s.v8.out 0 out, outlen := BitVec.ofNat 5 out.length } }

/-- The items `base | k` for the set bits `bits[k]` of an octet (R272). -/
def itemsOfBits (w : Byte) (base : Nat) (bits : List Nat) : List Byte :=
  (bits.zipIdx.filter (fun p => w.getLsbD p.1)).map (fun p => BitVec.ofNat 8 (base ||| p.2))

/-- The items an octet stands for, and the new value of `last`, where `none` is the rule's -1 (R272, `spec/30_encoding.md`
R111). -/
def parseOctet (last : Option Nat) (w : Byte) : List Byte × Option Nat :=
  if w.getLsbD 4 then
    if w &&& 0x38#8 = 0x10#8 ∧ (last = some 0 ∨ last = some 1) then
      if last = some 0 then (itemsOfBits w 0x30 extBits, some 1) else (itemsOfBits w 0x40 extBits, some 2)
    else ([], none)
  else
    let c := w.toNat / 32
    match (w &&& 0x0F#8).toNat with
    | 0x1 => ([BitVec.ofNat 8 (0x10 ||| c)], none)
    | 0x5 => (itemsOfBits w 0x20 [5, 6, 7], some 0)
    | 0xA => ([BitVec.ofNat 8 (0x50 ||| c)], none)
    | 0xD => (itemsOfBits w 0x60 [5, 6, 7], none)
    | 0x7 => (itemsOfBits w 0x70 [5, 6, 7], none)
    | 0xE => ([BitVec.ofNat 8 (0x80 ||| c)], none)
    | 0xF => ([BitVec.ofNat 8 (0x90 ||| c)], none)
    | _ => ([], none)

/-- The items that `menu_parse` offers to the receive set, in order (R272). -/
def menuItems : Option Nat → List Byte → List Byte
  | _, [] => []
  | last, w :: ws => (parseOctet last w).1 ++ menuItems (parseOctet last w).2 ws

/-- `menu_parse(buf)` (R272). -/
def menuParse (buf : List Byte) (s : State) : State := (menuItems none buf).foldl rxCapAdd s

/-- `menu_checksum(buf)` (R273). -/
def menuChecksum (buf : List Byte) : Word :=
  buf.foldl (fun ck b => ck * 31#32 + b.setWidth 32) (BitVec.ofNat 32 buf.length)

/-! ### Transmit side (R276 to R278) -/

/-- A menu made ready to be sent from its first bit: `menu_encode(items); V8_CURSOR <- 0` (R276, R283). -/
def v8LoadMenu (items : List Byte) (s : State) : State :=
  let s1 := menuEncode items s
  { s1 with v8 := { s1.v8 with cursor := 0#16 } }

/-- What `v8_tone_done()` does before it sets the phase: V21, channels, transmission on, the Call Menu (R276). -/
def v8PrepareCm (s : State) : State :=
  let s1 := fskSetDirections 1#1 0#1 true (fskSelect Config.v8Scheme s)
  v8LoadMenu (txItems s1) s1

/-- `v8_tone_done()` (R276). -/
def v8ToneDone (s : State) : State :=
  if s.v8.phase ≠ .txAns then s else v8Set .sentAnsam (v8PrepareCm s)

/-- `seq_len = 20 + 10 * V8_OUTLEN` (R277). -/
def seqLen (s : State) : Nat := 20 + 10 * s.v8.outlen.toNat

/-- `seq_bit(j)` (R277, `spec/30_encoding.md` R113). -/
def seqBit (s : State) (j : Nat) : Bool :=
  if j < Config.v8PreambleOnes then true
  else if j < 20 then Config.v8Sync.getLsbD (9 - (j - 10))
  else
    let m := (j - 20) / 10
    let p := (j - 20) % 10
    if p = 0 then false
    else if p = 9 then true
    else (ramRead s.v8.out m).getLsbD (p - 1)

/-- `V8_CURSOR <- (V8_CURSOR + 1) mod seq_len`, and the bit at the old cursor (R278). -/
def v8NextBit (s : State) : State × Bool :=
  ({ s with v8 := { s.v8 with cursor := BitVec.ofNat 16 ((s.v8.cursor.toNat + 1) % seqLen s) } },
   seqBit s s.v8.cursor.toNat)

/-- `v8_pop_tx_bit()` (R278). -/
def v8PopTxBit (s : State) : State × Bool :=
  match s.v8.phase with
  | .sentAnsam => v8NextBit (v8Set .sentCm s)
  | .sentCm => v8NextBit s
  | .sentJm => v8NextBit s
  | .idle | .txAns | .rxAns | .waitCm | .negotiated | .stopped => (s, true)

/-! ### Receive side (R280 to R284) -/

/-- The joint menu's items: those of this side's transmit set that are in the receive set (R284). -/
def jointItems (s : State) : List Byte := (txItems s).filter (fun i => (rxItems s).contains i)

/-- The Joint Menu built, the phase set to `SENT_JM` (R283). -/
def v8SendJm (enable : Bool) (s : State) : State :=
  let s1 := v8LoadMenu (jointItems s) s
  v8Set .sentJm (if enable then { s1 with fsk := { s1.fsk with txen := true } } else s1)

/-- `v8_confirm()` (R283). -/
def v8Confirm (s : State) : State :=
  match s.v8.phase with
  | .sentCm => v8Set .negotiated s
  | .sentAnsam => v8SendJm false s
  | .waitCm => v8SendJm true s
  | .sentJm => s
  | .idle | .txAns | .rxAns | .negotiated | .stopped => s

/-- The last line of `marker()` (R281): accumulation starts anew. -/
def markerClear (s : State) : State :=
  let s1 := frmReset v8Codec { s with v8 := { s.v8 with rxlen := 0#5 } }
  { s1 with v8 := { s1.v8 with zrun := 0#2 } }

/-- `marker()` (R281). -/
def v8Marker (s : State) : State :=
  if 0 < s.v8.rxlen.toNat then
    let buf := ramTake s.v8.rxbuf s.v8.rxlen.toNat
    let s1 := menuParse buf s
    let ck := menuChecksum buf
    let same := s1.v8.ckv && decide (ck = s1.v8.ck)
    let s2 := { s1 with v8 := { s1.v8 with ck := ck, ckv := true } }
    markerClear (if same then v8Confirm s2 else s2)
  else markerClear s

/-- A byte of the received menu: stored while there is room, counted for the zero run (R282). -/
def v8StoreByte (b : Byte) (s : State) : State :=
  let s1 :=
    if s.v8.rxlen.toNat < Config.menuCap then
      { s with v8 := { s.v8 with rxbuf := ramWrite s.v8.rxbuf s.v8.rxlen.toNat b, rxlen := s.v8.rxlen + 1#5 } }
    else s
  { s1 with v8 := { s1.v8 with
      zrun := if b = 0#8 then BitVec.ofNat 2 (min (s1.v8.zrun.toNat + 1) Config.v8ZeroFrames) else 0#2 } }

/-- `rx_frame_bit(b)` (R282). -/
def v8FrameBit (b : Bool) (s : State) : State :=
  let r := frmPush v8Codec b s
  match r.2 with
  | none => r.1
  | some v =>
    let s1 := v8StoreByte v r.1
    if s1.v8.phase = .sentJm ∧ s1.v8.zrun.toNat = Config.v8ZeroFrames then v8Set .negotiated s1 else s1

/-- `V8_SYNC` takes the bit as its lowest (R280). -/
def V8Regs.shiftIn (v : V8Regs) (b : Bool) : V8Regs := { v with sync := (v.sync <<< 1) ||| (if b then 1#10 else 0#10) }

/-- The shift register takes the bit, then `marker()` or `rx_frame_bit(b)` (R280). -/
def v8TakeBit (b : Bool) (s : State) : State :=
  let s1 := { s with v8 := s.v8.shiftIn b }
  if s1.v8.sync = Config.v8Sync then v8Marker s1 else v8FrameBit b s1

/-- `v8_push_rx_bit(b)` (R280). -/
def v8PushRxBit (b : Bool) (s : State) : State :=
  match s.v8.phase with
  | .sentAnsam => v8TakeBit b s
  | .sentCm => v8TakeBit b s
  | .waitCm => v8TakeBit b s
  | .sentJm => v8TakeBit b s
  | .idle | .txAns | .rxAns | .negotiated | .stopped => s

end Sys2Proof.Machine
end

