-- ==== Sys2Proof/Machine/Tone.lean ====
section
/-! DEFINITION. The tone engine and the operations 0x30 to 0x37 (`spec/42_tone_engine.md`). -/

namespace Sys2Proof.Machine

/-! ### Tone transmitter (R181 to R187) -/

/-- The registers `TONE_FINITE`, `TONE_LEFT` for a sample budget, `none` for an indefinite tone (R181). -/
def ToneTx.budget (t : ToneTx) (b : Option Word) : ToneTx :=
  match b with
  | none => { t with finite := false, left := 0#32 }
  | some n => { t with finite := true, left := n }

/-- What the duration word `total` means for a descriptor: 0 is its default, `INDEF` indefinite (R181). -/
def totalBudget (srate : Word) (d : ToneDesc) (total : Word) : Option Word :=
  if total = 0#32 then if d.playMs = 0 then none else some (msToSamples srate d.playMs)
  else if total = Config.indef then none
  else some total

/-- The registers that `tone_load(id, total, gain, so)` writes: all of them (R181). -/
def toneLoadRegs (srate : Word) (id : Byte) (total gain : Word) (so : BitVec 16) : ToneTx :=
  let d := toneDesc id.toNat
  let fs := srate.toNat
  let rev := msToSamples srate d.revMs
  let t : ToneTx :=
    { active := true
      id := id
      inc1 := phaseIncrement d.f1 fs
      inc2 := if d.f2 ≠ 0 then phaseIncrement d.f2 fs else 0#32
      has2 := decide (d.f2 ≠ 0)
      ph1 := 0#32
      ph2 := 0#32
      amInc := if d.amRate ≠ 0 then phaseIncrement d.amRate fs else 0#32
      amPh := 0#32
      amMid := BitVec.ofNat 16 ((d.amLo + d.amHi) / 2)
      amHalf := BitVec.ofInt 16 (asr ((d.amHi : Int) - (d.amLo : Int)) 1)
      revInt := rev
      revLeft := rev
      finite := false
      left := 0#32
      succ := if so = 0xFFFF#16 then d.succ else so.setWidth 8
      gain := gain }
  t.budget (totalBudget srate d total)

/-- `tone_load(id, total, gain, so)` (R181). -/
def toneLoad (id : Byte) (total gain : Word) (so : BitVec 16) (s : State) : State :=
  { s with tone := toneLoadRegs s.srate id total gain so }

/-- A segment's budget is exhausted: the condition of the loop of R185. -/
def ToneTx.spent (t : ToneTx) : Bool := t.active && t.finite && decide (t.left = 0#32)

/-- The tone ends: `TONE_ACTIVE <- 0; emit EV_TONE_DONE(TONE_ID, 0); v8_tone_done()` (R185). -/
def toneEnd (s : State) : State :=
  v8ToneDone (State.emit { s with tone := { s.tone with active := false } } (.toneDone s.tone.id))

/-- The loop of `tone_settle()` (R185), at most `fuel` turns. -/
def toneSettleLoop : Nat → State → State
  | 0, s => s
  | fuel + 1, s =>
    if s.tone.spent then
      if s.tone.succ ≠ 0#8 then toneSettleLoop fuel (toneLoad s.tone.succ 0#32 s.tone.gain 0xFFFF#16 s)
      else toneEnd s
    else s

/-- `tone_settle()` (R185). The successor graph is acyclic over 32 ids (R180), so the loop ends within 34 turns (log entry 9). -/
def toneSettle (s : State) : State := toneSettleLoop 34 s

/-- `tone_start(id, total, gain, so)` (R182). -/
def toneStart (id : Byte) (total gain : Word) (so : BitVec 16) (s : State) : State :=
  toneSettle (toneLoad id total gain so s)

/-- The registers that `tone_start_f` writes: all of them (R183). -/
def toneFreqRegs (srate : Word) (f1 f2 total gain : Word) : ToneTx :=
  let fs := srate.toNat
  let t : ToneTx :=
    { ToneTx.reset with
      active := true
      inc1 := phaseIncrement f1.toNat fs
      inc2 := if f2 ≠ 0#32 then phaseIncrement f2.toNat fs else 0#32
      has2 := decide (f2 ≠ 0#32)
      gain := gain }
  t.budget (if total = Config.indef then none else some total)

/-- `tone_start_f(f1, f2, total, gain)` (R183). -/
def toneStartF (f1 f2 total gain : Word) (s : State) : State :=
  toneSettle { s with tone := toneFreqRegs s.srate f1 f2 total gain }

/-- `tone_stop()` (R184). -/
def toneStop (s : State) : State := { s with tone := ToneTx.reset }

/-- The value of one output sample, computed from the phases before they advance (R187). -/
def ToneTx.value (t : ToneTx) : Int :=
  let v := sine t.ph1 + (if t.has2 then sine t.ph2 else 0)
  let env := (t.amMid.toNat : Int) + asr ((t.amHalf.toNat : Int) * sine t.amPh) Config.frac
  let w := if t.amInc ≠ 0#32 then asr (v * env) Config.frac else v
  asr (w * (t.gain.toNat : Int)) Config.frac

/-- The three phases advance by their increments (R187). -/
def ToneTx.advance (t : ToneTx) : ToneTx :=
  { t with ph1 := t.ph1 + t.inc1, ph2 := t.ph2 + t.inc2, amPh := t.amPh + t.amInc }

/-- The reversal counter: both carriers jump by half the domain when it reaches 0 (R187, R214). -/
def ToneTx.reverse (t : ToneTx) : ToneTx :=
  if t.revInt = 0#32 then t
  else if t.revLeft - 1#32 = 0#32 then
    { t with ph1 := t.ph1 + Config.half, ph2 := t.ph2 + Config.half, revLeft := t.revInt }
  else { t with revLeft := t.revLeft - 1#32 }

/-- The sample budget: one sample less of a finite tone (R187, R189). -/
def ToneTx.spend (t : ToneTx) : ToneTx := if t.finite then { t with left := t.left - 1#32 } else t

/-- `tone_sample()` (R187). -/
def toneSample (s : State) : State × Word :=
  if s.tone.active = false then (s, 0#32)
  else
    let s1 := { s with tone := s.tone.advance.reverse.spend }
    (if s1.tone.finite ∧ s1.tone.left = 0#32 then toneSettle s1 else s1, word32 s.tone.value)

/-! ### Tone classifier (R200 to R206) -/

/-- The distinct frequencies in order of first appearance (R200). -/
def distinct : List Nat → List Nat → List Nat
  | acc, [] => acc
  | acc, f :: fs => distinct (if acc.contains f then acc else acc ++ [f]) fs

/-- The subset-A frequencies of a candidate list (R200). -/
def subsetA (ids : List Nat) : List Nat := distinct [] (ids.map (fun i => (toneDesc i).f1))

/-- The subset-B frequencies of a candidate list (R200): 0 is "no second frequency". -/
def subsetB (ids : List Nat) : List Nat :=
  distinct [] ((ids.map (fun i => (toneDesc i).f2)).filter (fun f => decide (f ≠ 0)))

/-- The units of one subset initialised, unit `base + j` for the j-th frequency (R200). -/
def detInitUnits (base : Nat) : List Nat → State → State
  | [], s => s
  | f :: fs, s => detInitUnits (base + 1) fs (gzInit base f Config.detBlock s)

/-- The classifier's registers for a candidate list (R200). -/
def detRegs (ids fa fb : List Nat) : Detector :=
  { n := BitVec.ofNat 5 ids.length
    na := BitVec.ofNat 4 fa.length
    nb := BitVec.ofNat 4 fb.length
    candId := vecOf _ (fun i => BitVec.ofNat 8 (ids.getD i 0))
    fa := vecOf _ (fun j => BitVec.ofNat 32 (fa.getD j 0))
    fb := vecOf _ (fun j => BitVec.ofNat 32 (fb.getD j 0))
    fill := 0#16
    cand := 0#8
    hits := 0#32 }

/-- `det_cfg(ids)`, `1 <= n <= 16`, every id valid (R200): `none` for the rule's false. -/
def detCfg (ids : List Nat) (s : State) : Option State :=
  let fa := subsetA ids
  let fb := subsetB ids
  if Config.detSubsetMax < fa.length ∨ Config.detSubsetMax < fb.length then none
  else some (detInitUnits 8 fb (detInitUnits 0 fa { s with det := detRegs ids fa fb }))

/-- One unit cleared, as `det_clear` and the end of a block do (R201, R204). -/
def detClearUnit (s : State) (u : Nat) : State := s.setGz u (s.gzAt u).clear

/-- The owned units (`spec/10_state.md` R37). -/
def ownedUnits (s : State) : List Nat :=
  List.range s.det.na.toNat ++ (List.range s.det.nb.toNat).map (fun j => 8 + j)

/-- Count and taps of every owned unit to 0 (R201, R204). -/
def detClearUnits (s : State) : State := (ownedUnits s).foldl detClearUnit s

/-- `det_clear()` (R201). -/
def detClear (s : State) : State :=
  detClearUnits { s with det := { s.det with fill := 0#16, cand := 0#8, hits := 0#32 } }

/-- `det_off()` (R202). -/
def detOff (s : State) : State := { s with det := Detector.reset }

/-- What a detector operation reports. -/
structure Detection where
  cls : ToneClass
  id : Byte
  used : Nat
  deriving DecidableEq, Repr

/-- The units that one sample of a variant steps (R204, R205). -/
def fedUnits (s : State) (dual : Bool) : List Nat :=
  if dual then ownedUnits s else List.range s.det.na.toNat

/-- One sample fed to the classifier (R204). -/
def detStep (dual : Bool) (s : State) (x : Word) : State :=
  let s1 := (fedUnits s dual).foldl (fun t u => goertzelStep u (sampleInt x) t) s
  { s1 with det := { s1.det with fill := s1.det.fill + 1#16 } }

/-- `argmax`: the lowest index of a largest value (R203). -/
def argmaxFrom (best : Nat) (bestV : Int) : Nat → List Int → Nat
  | _, [] => best
  | j, v :: vs => if bestV < v then argmaxFrom j v (j + 1) vs else argmaxFrom best bestV (j + 1) vs

/-- `argmax(p[0 .. m-1])` (R203). -/
def argmax : List Int → Nat
  | [] => 0
  | v :: vs => argmaxFrom 0 v 1 vs

/-- The candidates `DET_CANDID[0 .. DET_N-1]`. -/
def candidates (s : State) : List Byte := (List.range s.det.n.toNat).map (vget s.det.candId 0#8)

/-- The first candidate with the frequency pair `f1`, `f2`; 0 if there is none (R204). -/
def candidateOf (s : State) (f1 f2 : Nat) : Byte :=
  ((candidates s).find? (fun c => decide ((toneDesc c.toNat).f1 = f1) && decide ((toneDesc c.toNat).f2 = f2))).getD 0#8

/-- The candidate that a completed block selects; 0 for no match (R204, R205). -/
def detWinner (dual : Bool) (s : State) : Byte :=
  let pa := (List.range s.det.na.toNat).map (fun j => (s.gzAt j).value)
  let pb := (List.range s.det.nb.toNat).map (fun j => (s.gzAt (8 + j)).value)
  let wa := argmax pa
  let va := pa.getD wa 0
  if va < Config.detPowerMin then 0#8
  else
    let fa := (vget s.det.fa 0#32 wa).toNat
    if dual then
      let wb := argmax pb
      let vb := pb.getD wb 0
      if 0 < s.det.nb.toNat ∧ Config.detPowerMin ≤ vb ∧ asr (max va vb) Config.detTwistShift ≤ min va vb then
        candidateOf s fa (vget s.det.fb 0#32 wb).toNat
      else 0#8
    else candidateOf s fa 0

/-- `classify(c, used)` (R206). -/
def classify (c : Byte) (used : Nat) (s : State) : State × Detection :=
  if c = 0#8 then ({ s with det := { s.det with cand := 0#8, hits := 0#32 } }, ⟨.none, 0#8, used⟩)
  else
    let hits := if c ≠ s.det.cand then 1#32 else s.det.hits + 1#32
    let s1 := { s with det := { s.det with cand := c, hits := hits } }
    let d := toneDesc c.toNat
    let dur := hits.toNat * Config.detBlock
    let deb := (msToSamples s.srate d.debMs).toNat
    let play := (msToSamples s.srate d.playMs).toNat
    if d.playMs ≠ 0 ∧ play < dur then
      ({ s with det := { s.det with cand := 0#8, hits := 0#32 } }, ⟨.noneWithReset, c, used⟩)
    else if dur < deb then (s1, ⟨.inProgress, c, used⟩)
    else if (dur : Int) - (Config.detBlock : Int) < (deb : Int) then (s1, ⟨.new, c, used⟩)
    else (s1, ⟨.continuing, c, used⟩)

/-- The end of a block (R204): the powers are read, the owned units cleared, `DET_FILL <- 0`, the winner classified. -/
def detFinish (dual : Bool) (used : Nat) (s : State) : State × Detection :=
  let s1 := detClearUnits s
  classify (detWinner dual s) used { s1 with det := { s1.det with fill := 0#16 } }

/-- `detect(X, count, dual)` (R204). -/
def detect (dual : Bool) (xs : List Word) (s : State) : State × Detection :=
  if s.det.n = 0#5 then (s, ⟨.none, 0#8, xs.length⟩)
  else
    let used := min xs.length (Config.detBlock - s.det.fill.toNat)
    let s1 := (xs.take used).foldl (detStep dual) s
    if s1.det.fill.toNat < Config.detBlock then (s1, ⟨.inProgress, s1.det.cand, used⟩)
    else detFinish dual used s1

/-! ### Operations -/

/-- `TONE_START id, so ; total, gain` (R190). -/
def execToneStart (id : Byte) (so : BitVec 16) (total gain : Word) (s : State) : Result :=
  if toneValid id.toNat && successorOk so then answerOk (toneStart id total gain so s.begin) [] []
  else answerFail s

/-- `TONE_START_F ; f1, f2, total, gain` (R191). -/
def execToneStartF (f1 f2 total gain : Word) (s : State) : Result :=
  answerOk (toneStartF f1 f2 total gain s.begin) [] []

/-- `TONE_TX count` (R192). -/
def execToneTx (count : BitVec 16) (s : State) : Result :=
  let r := synth toneSample count.toNat s.begin
  answerOk r.1 [] r.2

/-- `TONE_STOP` (R193). -/
def execToneStop (s : State) : Result := answerOk (toneStop s.begin) [] []

/-- An argument word of `DET_CFG` is a valid tone id (R208). -/
def detIdOk (a : Word) : Bool := decide (a.toNat ≤ 0xFF) && toneValid a.toNat

/-- `DET_CFG n ; ids` (R208). -/
def execDetCfg (ids : List Word) (s : State) : Result :=
  if ids.length = 0 ∨ Config.detCandMax < ids.length ∨ ids.all detIdOk = false then answerFail s
  else
    match detCfg (ids.map BitVec.toNat) s.begin with
    | none => answerFail s
    | some s1 => answerOk s1 [] []

/-- `DET_SINGLE count ; ; X` (R209). -/
def execDetSingle (xs : List Word) (s : State) : Result :=
  let r := detect false xs s.begin
  answerOk r.1 [classCode r.2.cls, r.2.id.setWidth 32, BitVec.ofNat 32 r.2.used] []

/-- `DET_DUAL count ; ; X` (R210). -/
def execDetDual (xs : List Word) (s : State) : Result :=
  let r := detect true xs s.begin
  answerOk r.1 [classCode r.2.cls, r.2.id.setWidth 32, BitVec.ofNat 32 r.2.used] []

/-- `DET_RESET` (R211). -/
def execDetReset (s : State) : Result := answerOk (detClear s.begin) [] []

end Sys2Proof.Machine
end

