-- ==== Sys2Proof/Machine/V8.lean ====
section
/-! DEFINITION. The V.8 engine's sessions, its sample-level procedures and the operations 0x50 to 0x58
(`spec/44_v8_engine.md`). -/

namespace Sys2Proof.Machine

/-- `v8_session_clear()` (R263): the transmit capability set and the buffers' content are kept. -/
def v8SessionClear (s : State) : State :=
  frmReset v8Codec { s with v8 := { s.v8 with
    nrx := 0#5
    rxlen := 0#5
    ck := 0#32
    ckv := false
    outlen := 0#5
    cursor := 0#16
    sync := 0x3FF#10
    zrun := 0#2 } }

/-- The candidates of the `LISTEN` role: `ANS` and `CT` (R264). -/
def listenIds : List Nat := [0x13, 0x17]

/-- `v8_start(role, tone)` (R264). `det_cfg` cannot fail on the two listen candidates. -/
def v8Start (role : Role) (tone : Byte) (s : State) : State :=
  let s1 := v8SessionClear s
  let s2 := { s1 with v8 := { s1.v8 with role := role } }
  match role with
  | .send => toneStart tone 0#32 Config.one 0xFFFF#16 (v8Set .txAns s2)
  | .listen => v8Set .rxAns ((detCfg listenIds s2).getD s2)

/-- `v8_tx_sample()` (R285). -/
def v8TxSample (s : State) : State × Word :=
  match s.v8.phase with
  | .txAns => toneSample s
  | .sentAnsam => modSample v8PopTxBit s
  | .sentCm => modSample v8PopTxBit s
  | .sentJm => modSample v8PopTxBit s
  | .idle | .rxAns | .waitCm | .negotiated | .stopped => (s, 0#32)

/-- `answer_seen()` (R287). -/
def answerSeen (s : State) : State :=
  v8Set .waitCm (fskSetDirections 0#1 1#1 false (fskSelect Config.v8Scheme s))

/-- The loop of `v8_rx_block` (R286), at most `fuel` turns. -/
def v8RxLoop : Nat → List Word → State → State
  | 0, _, s => s
  | _ + 1, [], s => s
  | fuel + 1, x :: xs, s =>
    match s.v8.phase with
    | .rxAns =>
      let r := detect false (x :: xs) s
      v8RxLoop fuel ((x :: xs).drop r.2.used) (if r.2.cls = .new then answerSeen r.1 else r.1)
    | .sentAnsam => v8RxLoop fuel xs (demSample v8PushRxBit x s)
    | .sentCm => v8RxLoop fuel xs (demSample v8PushRxBit x s)
    | .waitCm => v8RxLoop fuel xs (demSample v8PushRxBit x s)
    | .sentJm => v8RxLoop fuel xs (demSample v8PushRxBit x s)
    | .idle | .txAns | .negotiated | .stopped => s

/-- `v8_rx_block(X, count)` (R286): every turn but at most one takes a sample, so `count + 1` turns end the loop (log entry 10). -/
def v8RxBlock (xs : List Word) (s : State) : State := v8RxLoop (xs.length + 1) xs s

/-! ### Operations -/

/-- `V8_START role, tone` (R265). -/
def execV8Start (role : Role) (tone : BitVec 16) (s : State) : Result :=
  if role = .listen ∧ tone ≠ 0#16 then answerIllegal s
  else if role = .send ∧ (decide (tone.toNat ≤ 0xFF) && toneValid tone.toNat) = false then answerFail s
  else if schemeUsable s.srate Config.v8Scheme.toNat = false then answerFail s
  else answerOk (v8Start role (tone.setWidth 8) s.begin) [] []

/-- `V8_STOP` (R266). -/
def execV8Stop (s : State) : Result := answerOk (v8Set .stopped s.begin) [] []

/-- `V8_ADD_CAP i` (R269). -/
def execV8AddCap (item : Byte) (s : State) : Result :=
  match txCapAdd item s.begin with
  | none => answerFail s
  | some s1 => answerOk s1 [] []

/-- A capability set as result words: the count, then the items in insertion order (R274, R275). -/
def capWords (items : List Byte) : List Word := BitVec.ofNat 32 items.length :: items.map (fun i => i.setWidth 32)

/-- `V8_GET_TXCAPS` (R274). -/
def execV8GetTxcaps (s : State) : Result := answerOk s.begin (capWords (txItems s)) []

/-- `V8_GET_RXCAPS` (R275). -/
def execV8GetRxcaps (s : State) : Result := answerOk s.begin (capWords (rxItems s)) []

/-- `V8_TX count` (R288). -/
def execV8Tx (count : BitVec 16) (s : State) : Result :=
  let r := synth v8TxSample count.toNat s.begin
  answerOk r.1 [] r.2

/-- `V8_RX count ; ; X` (R289). -/
def execV8Rx (xs : List Word) (s : State) : Result := answerOk (v8RxBlock xs s.begin) [] []

/-- `V8_POP_TX_BIT` (R290). -/
def execV8PopTxBit (s : State) : Result :=
  let r := v8PopTxBit s.begin
  answerOk r.1 [bitWord r.2] []

/-- `V8_PUSH_RX_BIT b` (R291). -/
def execV8PushRxBit (b : Bool) (s : State) : Result := answerOk (v8PushRxBit b s.begin) [] []

end Sys2Proof.Machine
end

