-- ==== Sys2Proof/Machine/Facade.lean ====
section
/-! DEFINITION. The façade and the operations 0x60 to 0x67 (`spec/46_facade_host.md`). -/

namespace Sys2Proof.Machine

/-- `go_on_hook()` (R327): every register and RAM word at its reset value but `SRATE`, `FRM_ORDER`, `V8_NTX`, `V8_TXCAPS`. -/
def goOnHook (s : State) : State :=
  { resetBlock s with
    srate := s.srate
    codec := vecOf 3 (fun k => { Codec.reset with order := (s.codecAt k).order })
    v8 := { V8Regs.reset with ntx := s.v8.ntx, txcaps := s.v8.txcaps } }

/-- The sixteen DTMF tones (R328). -/
def dtmfIds : List Nat := (List.range 16).map (fun i => i + 1)

/-- `go_off_hook(t)`, `t` a valid tone id (R328). `det_cfg` cannot fail on the sixteen DTMF tones. -/
def goOffHook (t : Byte) (s : State) : State :=
  let s1 := toneStart t 0#32 Config.one 0xFFFF#16 { s with callState := .offHookIdle, dialTone := t }
  (detCfg dtmfIds s1).getD s1

/-- One sample of `PULL` (R333). -/
def pullSample (s : State) : State × Word :=
  match s.callState with
  | .onHook => (s, 0#32)
  | .dialing => (s, 0#32)
  | .offHookIdle => toneSample s
  | .v8 => v8TxSample s
  | .data => modSample dataPopTxBit s

/-- `N` of `request_timer(w)` (R336): how many milliseconds the host waits before it answers the request with `TIMER_FIRE w`. The
block holds no time (`spec/60_exceptions.md` R372): no operation reads it. -/
def timerDelayMs (w : Timer) : Nat :=
  match w with
  | .postDial => Config.params.postDialMs
  | .preData => Config.params.preDataMs

/-- `digit()` (R335). -/
def digit (s : State) : State :=
  requestTimer .postDial (if s.callState = .offHookIdle then { toneStop s with callState := .dialing } else s)

/-- A classification is a newly recognised DTMF digit (R334). -/
def Detection.isDigit (d : Detection) : Bool :=
  decide (d.cls = .new) && decide (0x01 ≤ d.id.toNat) && decide (d.id.toNat ≤ 0x10)

/-- The detector loop of `PUSH` (R334), at most `fuel` turns. -/
def pushDetectLoop : Nat → List Word → State → State
  | 0, _, s => s
  | _ + 1, [], s => s
  | fuel + 1, x :: xs, s =>
    let r := detect true (x :: xs) s
    pushDetectLoop fuel ((x :: xs).drop r.2.used) (if r.2.isDigit then digit r.1 else r.1)

/-- `PUSH` by the call state read once, at the start (R334). The detector loop takes a sample in every turn but at most one, so
`count + 1` turns end it (log entry 10). -/
def pushBlock (xs : List Word) (s : State) : State :=
  match s.callState with
  | .onHook => s
  | .offHookIdle => pushDetectLoop (xs.length + 1) xs s
  | .dialing => pushDetectLoop (xs.length + 1) xs s
  | .v8 => v8RxBlock xs s
  | .data => demBlock dataPushRxBit xs s

/-- `post_dial()` (R338). -/
def postDial (s : State) : State :=
  v8Start .send Config.v8AnswerTone { detOff s with callState := .v8 }

/-- A byte queued if there is room, dropped if there is none (R342, R343). -/
def txqOffer (s : State) (b : Byte) : State := (txqPut b s).getD s

/-- `bootstrap()` (R342). -/
def bootstrap (s : State) : State := Config.bootstrap.foldl txqOffer s

/-! ### Operations -/

/-- `RESTART t` (R329). -/
def execRestart (t : Byte) (s : State) : Result :=
  if toneValid t.toNat then answerOk (goOffHook t (goOnHook s.begin)) [] [] else answerFail s

/-- `IS_ON_HOOK` (R330). -/
def execIsOnHook (s : State) : Result := answerOk s.begin [bitWord (decide (s.callState = .onHook))] []

/-- `SET_ON_HOOK` (R331). -/
def execSetOnHook (s : State) : Result := answerOk (goOnHook s.begin) [] []

/-- `SET_OFF_HOOK t` (R332). -/
def execSetOffHook (t : Byte) (s : State) : Result :=
  if s.callState ≠ .onHook ∨ toneValid t.toNat = false then answerFail s
  else answerOk (goOffHook t s.begin) [] []

/-- `PULL count` (R333). -/
def execPull (count : BitVec 16) (s : State) : Result :=
  let r := synth pullSample count.toNat s.begin
  answerOk r.1 [count.setWidth 32] r.2

/-- `PUSH count ; ; X` (R334). -/
def execPush (xs : List Word) (s : State) : Result := answerOk (pushBlock xs s.begin) [] []

/-- `SERIAL_BIT b` (R343). -/
def execSerialBit (b : Bool) (s : State) : Result :=
  let r := frmPush dteCodec b s.begin
  match r.2 with
  | some v => answerOk (if r.1.callState = .data then txqOffer r.1 v else r.1) [] []
  | none => answerOk r.1 [] []

/-- `TIMER_FIRE w` (R337). -/
def execTimerFire (w : Timer) (s : State) : Result :=
  if s.timerPending w = false then answerFail s
  else
    match w with
    | .postDial =>
      if schemeUsable s.srate Config.v8Scheme.toNat = false then answerFail s
      else answerOk (postDial (s.begin.clearTimer .postDial)) [] []
    | .preData => answerOk (bootstrap (s.begin.clearTimer .preData)) [] []

end Sys2Proof.Machine
end

