-- ==== Sys2Proof/Machine/Dispatch.lean ====
section
/-! DEFINITION. The meaning of every instruction: one arm per constructor of `Instr`, each one call. -/

namespace Sys2Proof.Machine

def exec (i : Instr) (s : State) : Host.Outcome State Fault Refusal :=
  match i with
  -- Control and inspection (`spec/45_control.md`)
  | .nop => Sys2Proof.Machine.execNop s
  | .reset => Sys2Proof.Machine.execReset s
  | .setRate hz => Sys2Proof.Machine.execSetRate hz s
  | .getRate => Sys2Proof.Machine.execGetRate s
  | .rdReg index id => Sys2Proof.Machine.execRdReg index id s
  | .rdMem mem addr => Sys2Proof.Machine.execRdMem mem addr s
  -- DSP primitives (`spec/40_dsp_primitives.md`)
  | .phaseInc f => Sys2Proof.Machine.execPhaseInc f s
  | .phaseInv => Sys2Proof.Machine.execPhaseInv s
  | .sine ph => Sys2Proof.Machine.execSine ph s
  | .gzInit u n f => Sys2Proof.Machine.execGzInit u n f s
  | .gzAcc u xs => Sys2Proof.Machine.execGzAcc u xs s
  | .gzPower u => Sys2Proof.Machine.execGzPower u s
  | .iqBuild t len f => Sys2Proof.Machine.execIqBuild t len f s
  | .correlate t q start => Sys2Proof.Machine.execCorrelate t q start s
  -- Frame codec (`spec/41_frame_codec.md`)
  | .frmCfg k o => Sys2Proof.Machine.execFrmCfg k o s
  | .frmLoad k b => Sys2Proof.Machine.execFrmLoad k b s
  | .frmPop k => Sys2Proof.Machine.execFrmPop k s
  | .frmPush k b => Sys2Proof.Machine.execFrmPush k b s
  | .frmReset k => Sys2Proof.Machine.execFrmReset k s
  -- Tone engine (`spec/42_tone_engine.md`)
  | .toneStart id so total gain => Sys2Proof.Machine.execToneStart id so total gain s
  | .toneStartF f1 f2 total gain => Sys2Proof.Machine.execToneStartF f1 f2 total gain s
  | .toneTx count => Sys2Proof.Machine.execToneTx count s
  | .toneStop => Sys2Proof.Machine.execToneStop s
  | .detCfg ids => Sys2Proof.Machine.execDetCfg ids s
  | .detSingle xs => Sys2Proof.Machine.execDetSingle xs s
  | .detDual xs => Sys2Proof.Machine.execDetDual xs s
  | .detReset => Sys2Proof.Machine.execDetReset s
  -- FSK engine and data path (`spec/43_fsk_engine.md`)
  | .fskSelect id => Sys2Proof.Machine.execFskSelect id s
  | .fskTxch c => Sys2Proof.Machine.execFskTxch c s
  | .fskRxch c => Sys2Proof.Machine.execFskRxch c s
  | .fskTxen e => Sys2Proof.Machine.execFskTxen e s
  | .fskTx count => Sys2Proof.Machine.execFskTx count s
  | .fskRx xs => Sys2Proof.Machine.execFskRx xs s
  | .txByte b => Sys2Proof.Machine.execTxByte b s
  | .dataPopTxBit => Sys2Proof.Machine.execDataPopTxBit s
  | .dataPushRxBit b => Sys2Proof.Machine.execDataPushRxBit b s
  -- V.8 engine (`spec/44_v8_engine.md`)
  | .v8Start role tone => Sys2Proof.Machine.execV8Start role tone s
  | .v8Stop => Sys2Proof.Machine.execV8Stop s
  | .v8AddCap item => Sys2Proof.Machine.execV8AddCap item s
  | .v8GetTxcaps => Sys2Proof.Machine.execV8GetTxcaps s
  | .v8GetRxcaps => Sys2Proof.Machine.execV8GetRxcaps s
  | .v8Tx count => Sys2Proof.Machine.execV8Tx count s
  | .v8Rx xs => Sys2Proof.Machine.execV8Rx xs s
  | .v8PopTxBit => Sys2Proof.Machine.execV8PopTxBit s
  | .v8PushRxBit b => Sys2Proof.Machine.execV8PushRxBit b s
  -- Facade (`spec/46_facade_host.md`)
  | .restart t => Sys2Proof.Machine.execRestart t s
  | .isOnHook => Sys2Proof.Machine.execIsOnHook s
  | .setOnHook => Sys2Proof.Machine.execSetOnHook s
  | .setOffHook t => Sys2Proof.Machine.execSetOffHook t s
  | .pull count => Sys2Proof.Machine.execPull count s
  | .push xs => Sys2Proof.Machine.execPush xs s
  | .serialBit b => Sys2Proof.Machine.execSerialBit b s
  | .timerFire w => Sys2Proof.Machine.execTimerFire w s

end Sys2Proof.Machine
end

