-- ==== Sys2Proof/WellFormed.lean ====
section
/-! DEFINITION. Which terms of `Instr` an encoding can carry: the checks that the types of `Syntax.lean` do not make already. -/

namespace Sys2Proof

/-- A count of words fits the 16-bit `imm` (`spec/30_encoding.md` R92: "one operation carries 0 to 65535 samples"; R90 for the
argument words of `DET_CFG`). -/
def countFits (xs : List Word) : Bool := decide (xs.length < 65536)

/-- The role and tone of `V8_START` agree: `imm` is 0 when the role is `LISTEN` (R101, R357). -/
def roleToneOk (role : Role) (tone : BitVec 16) : Bool :=
  match role with
  | .send => true
  | .listen => decide (tone = 0#16)

/-- The instruction has an encoding. -/
def Instr.wellFormed (i : Instr) : Bool :=
  match i with
  | .gzAcc _ xs => countFits xs
  | .detCfg ids => countFits ids
  | .detSingle xs => countFits xs
  | .detDual xs => countFits xs
  | .fskRx xs => countFits xs
  | .v8Rx xs => countFits xs
  | .push xs => countFits xs
  | .v8Start role tone => roleToneOk role tone
  | .nop | .reset | .setRate _ | .getRate | .rdReg _ _ | .rdMem _ _ | .phaseInc _ | .phaseInv | .sine _ | .gzInit _ _ _
  | .gzPower _ | .iqBuild _ _ _ | .correlate _ _ _ | .frmCfg _ _ | .frmLoad _ _ | .frmPop _ | .frmPush _ _ | .frmReset _
  | .toneStart _ _ _ _ | .toneStartF _ _ _ _ | .toneTx _ | .toneStop | .detReset | .fskSelect _ | .fskTxch _ | .fskRxch _
  | .fskTxen _ | .fskTx _ | .txByte _ | .dataPopTxBit | .dataPushRxBit _ | .v8Stop | .v8AddCap _ | .v8GetTxcaps
  | .v8GetRxcaps | .v8Tx _ | .v8PopTxBit | .v8PushRxBit _ | .restart _ | .isOnHook | .setOnHook | .setOffHook _ | .pull _
  | .serialBit _ | .timerFire _ => true

end Sys2Proof
end

