-- ==== Sys2Proof/Decode.lean ====
section
/-! DEFINITION. The decoder of a framed command, total, rejecting by name (`spec/30_encoding.md` R90 to R101, `spec/60_exceptions.md`
R357), the encoder after it, and the numbering of a table word. -/

namespace Sys2Proof

/-- Why a frame is no operation. `unallocatedOp` and `illegalField` are the two steps of R97 that answer `ILLEGAL`;
`wordCount` is a frame whose number of argument or sample words is not the one R101 fixes (log entry 3). -/
inductive DecodeError where
  | unallocatedOp
  | illegalField
  | wordCount
  deriving DecidableEq, Repr

/-- `op = CW[31:24]` (R91). -/
def cwOp (cw : Word) : BitVec 8 := cw.extractLsb' 24 8

/-- `sel = CW[23:16]` (R91). -/
def cwSel (cw : Word) : BitVec 8 := cw.extractLsb' 16 8

/-- `imm = CW[15:0]` (R91). -/
def cwImm (cw : Word) : BitVec 16 := cw.extractLsb' 0 16

/-- The command word with the three fields (R91). -/
def mkCw (op : BitVec 8) (sel : BitVec 8) (imm : BitVec 16) : Word := op ++ sel ++ imm

/-- The column `A` of R101: how many argument words follow a command word. -/
def argWords (cw : Word) : Nat :=
  match (cwOp cw).toNat with
  | 0x02 => 1
  | 0x10 => 1
  | 0x12 => 1
  | 0x13 => 1
  | 0x16 => 1
  | 0x17 => 1
  | 0x30 => 2
  | 0x31 => 4
  | 0x34 => (cwImm cw).toNat
  | _ => 0

/-- The column `X` of R101: how many sample words follow the argument words. -/
def sampleWords (cw : Word) : Nat :=
  match (cwOp cw).toNat with
  | 0x14 => (cwImm cw).toNat
  | 0x35 => (cwImm cw).toNat
  | 0x36 => (cwImm cw).toNat
  | 0x45 => (cwImm cw).toNat
  | 0x56 => (cwImm cw).toNat
  | 0x65 => (cwImm cw).toNat
  | _ => 0

/-- A legal command word (`ok`, the field checks of R93) stands for `i` when the frame holds as many words as R101 fixes. -/
def Frame.legal (f : Frame) (ok : Bool) (i : Instr) : Except DecodeError Instr :=
  if ok then
    if f.args.length = argWords f.cw ∧ f.samples.length = sampleWords f.cw then .ok i else .error .wordCount
  else .error .illegalField

/-- Argument word `A<j>`. -/
def Frame.arg (f : Frame) (j : Nat) : Word := f.args.getD j 0#32

/-- A one-bit field as a line bit. -/
def bitField (v : BitVec 16) : Bool := v.getLsbD 0

/-- `imm` of `FRM_CFG` as a bit order (R109). -/
def orderField (v : BitVec 16) : BitOrder := if v = 0#16 then .lsbFirst else .msbFirst

/-- `sel` of `V8_START` as a role (R109). -/
def roleField (v : BitVec 8) : Role := if v = 0#8 then .send else .listen

/-- `sel` of `TIMER_FIRE` as a timer (R109). -/
def timerField (v : BitVec 8) : Timer := if v = 0#8 then .postDial else .preData

/-- `sel[2]` of `CORRELATE` as a component (R101). -/
def componentField (v : BitVec 8) : Component := if v.getLsbD 2 then .quadrature else .inPhase

/-- The decoder: R97 (1) the operation code, (2) the fields, then the operand words. -/
def decode (f : Frame) : Except DecodeError Instr :=
  let sel := cwSel f.cw
  let imm := cwImm f.cw
  let s0 := decide (sel = 0#8)
  let i0 := decide (imm = 0#16)
  let inst := decide (sel.toNat < 3)
  let bit := decide (imm.toNat < 2)
  let byte := decide (imm.toNat < 256)
  let two := decide (sel.toNat < 2)
  match (cwOp f.cw).toNat with
  | 0x00 => f.legal (s0 && i0) .nop
  | 0x01 => f.legal (s0 && i0) .reset
  | 0x02 => f.legal (s0 && i0) (.setRate (f.arg 0))
  | 0x03 => f.legal (s0 && i0) .getRate
  | 0x04 => f.legal true (.rdReg sel imm)
  | 0x05 => f.legal true (.rdMem sel imm)
  | 0x10 => f.legal (s0 && i0) (.phaseInc (f.arg 0))
  | 0x11 => f.legal (s0 && i0) .phaseInv
  | 0x12 => f.legal (s0 && i0) (.sine (f.arg 0))
  | 0x13 => f.legal (decide (sel.toNat < 16)) (.gzInit (Fin.ofNat 16 sel.toNat) imm (f.arg 0))
  | 0x14 => f.legal (decide (sel.toNat < 16)) (.gzAcc (Fin.ofNat 16 sel.toNat) f.samples)
  | 0x15 => f.legal (decide (sel.toNat < 16) && i0) (.gzPower (Fin.ofNat 16 sel.toNat))
  | 0x16 => f.legal (decide (sel.toNat < 4)) (.iqBuild (Fin.ofNat 4 sel.toNat) imm (f.arg 0))
  | 0x17 => f.legal (decide (sel.toNat < 8) && i0) (.correlate (Fin.ofNat 4 sel.toNat) (componentField sel) (f.arg 0))
  | 0x20 => f.legal (inst && bit) (.frmCfg (Fin.ofNat 3 sel.toNat) (orderField imm))
  | 0x21 => f.legal (inst && byte) (.frmLoad (Fin.ofNat 3 sel.toNat) (imm.setWidth 8))
  | 0x22 => f.legal (inst && i0) (.frmPop (Fin.ofNat 3 sel.toNat))
  | 0x23 => f.legal (inst && bit) (.frmPush (Fin.ofNat 3 sel.toNat) (bitField imm))
  | 0x24 => f.legal (inst && i0) (.frmReset (Fin.ofNat 3 sel.toNat))
  | 0x30 => f.legal true (.toneStart sel imm (f.arg 0) (f.arg 1))
  | 0x31 => f.legal (s0 && i0) (.toneStartF (f.arg 0) (f.arg 1) (f.arg 2) (f.arg 3))
  | 0x32 => f.legal s0 (.toneTx imm)
  | 0x33 => f.legal (s0 && i0) .toneStop
  | 0x34 => f.legal s0 (.detCfg f.args)
  | 0x35 => f.legal s0 (.detSingle f.samples)
  | 0x36 => f.legal s0 (.detDual f.samples)
  | 0x37 => f.legal (s0 && i0) .detReset
  | 0x40 => f.legal i0 (.fskSelect sel)
  | 0x41 => f.legal (two && i0) (.fskTxch (Fin.ofNat 2 sel.toNat))
  | 0x42 => f.legal (two && i0) (.fskRxch (Fin.ofNat 2 sel.toNat))
  | 0x43 => f.legal (s0 && bit) (.fskTxen (bitField imm))
  | 0x44 => f.legal s0 (.fskTx imm)
  | 0x45 => f.legal s0 (.fskRx f.samples)
  | 0x46 => f.legal (s0 && byte) (.txByte (imm.setWidth 8))
  | 0x47 => f.legal (s0 && i0) .dataPopTxBit
  | 0x48 => f.legal (s0 && bit) (.dataPushRxBit (bitField imm))
  | 0x50 => f.legal (s0 || (decide (sel = 1#8) && i0)) (.v8Start (roleField sel) imm)
  | 0x51 => f.legal (s0 && i0) .v8Stop
  | 0x52 => f.legal (s0 && byte) (.v8AddCap (imm.setWidth 8))
  | 0x53 => f.legal (s0 && i0) .v8GetTxcaps
  | 0x54 => f.legal (s0 && i0) .v8GetRxcaps
  | 0x55 => f.legal s0 (.v8Tx imm)
  | 0x56 => f.legal s0 (.v8Rx f.samples)
  | 0x57 => f.legal (s0 && i0) .v8PopTxBit
  | 0x58 => f.legal (s0 && bit) (.v8PushRxBit (bitField imm))
  | 0x60 => f.legal i0 (.restart sel)
  | 0x61 => f.legal (s0 && i0) .isOnHook
  | 0x62 => f.legal (s0 && i0) .setOnHook
  | 0x63 => f.legal i0 (.setOffHook sel)
  | 0x64 => f.legal s0 (.pull imm)
  | 0x65 => f.legal s0 (.push f.samples)
  | 0x66 => f.legal (s0 && bit) (.serialBit (bitField imm))
  | 0x67 => f.legal (two && i0) (.timerFire (timerField sel))
  | _ => .error .unallocatedOp

/-- A line bit as an `imm` field. -/
def bitImm (b : Bool) : BitVec 16 := if b then 1#16 else 0#16

/-- A bit order as an `imm` field. -/
def orderImm (o : BitOrder) : BitVec 16 :=
  match o with
  | .lsbFirst => 0#16
  | .msbFirst => 1#16

/-- A role as a `sel` field. -/
def roleSel (r : Role) : BitVec 8 :=
  match r with
  | .send => 0#8
  | .listen => 1#8

/-- A timer as a `sel` field. -/
def timerSel (w : Timer) : BitVec 8 :=
  match w with
  | .postDial => 0#8
  | .preData => 1#8

/-- Table and component as the `sel` field of `CORRELATE`: `sel[1:0]` table, `sel[2]` component. -/
def correlateSel (t : Fin 4) (q : Component) : BitVec 8 :=
  match q with
  | .inPhase => BitVec.ofNat 8 t.val
  | .quadrature => BitVec.ofNat 8 (4 + t.val)

/-- A list's length as the `imm` field that counts it. -/
def countImm (xs : List Word) : BitVec 16 := BitVec.ofNat 16 xs.length

/-- The encoder: the words of a well-formed instruction (R90, R91, R101). -/
def encode (i : Instr) : Frame :=
  match i with
  | .nop => ⟨mkCw 0x00#8 0#8 0#16, [], []⟩
  | .reset => ⟨mkCw 0x01#8 0#8 0#16, [], []⟩
  | .setRate hz => ⟨mkCw 0x02#8 0#8 0#16, [hz], []⟩
  | .getRate => ⟨mkCw 0x03#8 0#8 0#16, [], []⟩
  | .rdReg index id => ⟨mkCw 0x04#8 index id, [], []⟩
  | .rdMem mem addr => ⟨mkCw 0x05#8 mem addr, [], []⟩
  | .phaseInc f => ⟨mkCw 0x10#8 0#8 0#16, [f], []⟩
  | .phaseInv => ⟨mkCw 0x11#8 0#8 0#16, [], []⟩
  | .sine ph => ⟨mkCw 0x12#8 0#8 0#16, [ph], []⟩
  | .gzInit u n f => ⟨mkCw 0x13#8 (BitVec.ofNat 8 u.val) n, [f], []⟩
  | .gzAcc u xs => ⟨mkCw 0x14#8 (BitVec.ofNat 8 u.val) (countImm xs), [], xs⟩
  | .gzPower u => ⟨mkCw 0x15#8 (BitVec.ofNat 8 u.val) 0#16, [], []⟩
  | .iqBuild t len f => ⟨mkCw 0x16#8 (BitVec.ofNat 8 t.val) len, [f], []⟩
  | .correlate t q start => ⟨mkCw 0x17#8 (correlateSel t q) 0#16, [start], []⟩
  | .frmCfg k o => ⟨mkCw 0x20#8 (BitVec.ofNat 8 k.val) (orderImm o), [], []⟩
  | .frmLoad k b => ⟨mkCw 0x21#8 (BitVec.ofNat 8 k.val) (b.setWidth 16), [], []⟩
  | .frmPop k => ⟨mkCw 0x22#8 (BitVec.ofNat 8 k.val) 0#16, [], []⟩
  | .frmPush k b => ⟨mkCw 0x23#8 (BitVec.ofNat 8 k.val) (bitImm b), [], []⟩
  | .frmReset k => ⟨mkCw 0x24#8 (BitVec.ofNat 8 k.val) 0#16, [], []⟩
  | .toneStart id so total gain => ⟨mkCw 0x30#8 id so, [total, gain], []⟩
  | .toneStartF f1 f2 total gain => ⟨mkCw 0x31#8 0#8 0#16, [f1, f2, total, gain], []⟩
  | .toneTx count => ⟨mkCw 0x32#8 0#8 count, [], []⟩
  | .toneStop => ⟨mkCw 0x33#8 0#8 0#16, [], []⟩
  | .detCfg ids => ⟨mkCw 0x34#8 0#8 (countImm ids), ids, []⟩
  | .detSingle xs => ⟨mkCw 0x35#8 0#8 (countImm xs), [], xs⟩
  | .detDual xs => ⟨mkCw 0x36#8 0#8 (countImm xs), [], xs⟩
  | .detReset => ⟨mkCw 0x37#8 0#8 0#16, [], []⟩
  | .fskSelect id => ⟨mkCw 0x40#8 id 0#16, [], []⟩
  | .fskTxch c => ⟨mkCw 0x41#8 (BitVec.ofNat 8 c.val) 0#16, [], []⟩
  | .fskRxch c => ⟨mkCw 0x42#8 (BitVec.ofNat 8 c.val) 0#16, [], []⟩
  | .fskTxen e => ⟨mkCw 0x43#8 0#8 (bitImm e), [], []⟩
  | .fskTx count => ⟨mkCw 0x44#8 0#8 count, [], []⟩
  | .fskRx xs => ⟨mkCw 0x45#8 0#8 (countImm xs), [], xs⟩
  | .txByte b => ⟨mkCw 0x46#8 0#8 (b.setWidth 16), [], []⟩
  | .dataPopTxBit => ⟨mkCw 0x47#8 0#8 0#16, [], []⟩
  | .dataPushRxBit b => ⟨mkCw 0x48#8 0#8 (bitImm b), [], []⟩
  | .v8Start role tone => ⟨mkCw 0x50#8 (roleSel role) tone, [], []⟩
  | .v8Stop => ⟨mkCw 0x51#8 0#8 0#16, [], []⟩
  | .v8AddCap item => ⟨mkCw 0x52#8 0#8 (item.setWidth 16), [], []⟩
  | .v8GetTxcaps => ⟨mkCw 0x53#8 0#8 0#16, [], []⟩
  | .v8GetRxcaps => ⟨mkCw 0x54#8 0#8 0#16, [], []⟩
  | .v8Tx count => ⟨mkCw 0x55#8 0#8 count, [], []⟩
  | .v8Rx xs => ⟨mkCw 0x56#8 0#8 (countImm xs), [], xs⟩
  | .v8PopTxBit => ⟨mkCw 0x57#8 0#8 0#16, [], []⟩
  | .v8PushRxBit b => ⟨mkCw 0x58#8 0#8 (bitImm b), [], []⟩
  | .restart t => ⟨mkCw 0x60#8 t 0#16, [], []⟩
  | .isOnHook => ⟨mkCw 0x61#8 0#8 0#16, [], []⟩
  | .setOnHook => ⟨mkCw 0x62#8 0#8 0#16, [], []⟩
  | .setOffHook t => ⟨mkCw 0x63#8 t 0#16, [], []⟩
  | .pull count => ⟨mkCw 0x64#8 0#8 count, [], []⟩
  | .push xs => ⟨mkCw 0x65#8 0#8 (countImm xs), [], xs⟩
  | .serialBit b => ⟨mkCw 0x66#8 0#8 (bitImm b), [], []⟩
  | .timerFire w => ⟨mkCw 0x67#8 (timerSel w) 0#16, [], []⟩

/-- Word `k` of an instruction given as one number: bit 0 is the least significant bit of the first word, a later word's bits
count on from it, and the bits at and above `nbits` are 0. -/
def tableWordAt (nbits w k : Nat) : Word := BitVec.ofNat 32 ((w % 2 ^ nbits) >>> (32 * k))

/-- `n` successive words of such a number, from word `k` on. -/
def tableWordsFrom (nbits w k : Nat) : Nat → List Word
  | 0 => []
  | n + 1 => tableWordAt nbits w k :: tableWordsFrom nbits w (k + 1) n

/-- The frame of such a number: the command word, then as many argument and sample words as R101 fixes for it. -/
def tableFrame (nbits w : Nat) : Frame :=
  let cw := tableWordAt nbits w 0
  ⟨cw, tableWordsFrom nbits w 1 (argWords cw), tableWordsFrom nbits w (1 + argWords cw) (sampleWords cw)⟩

/-- The instruction the decoder reads from an instruction whose bits are `w`; `none` where it refuses. -/
def decodeTableWord (nbits w : Nat) : Option Instr :=
  match decode (tableFrame nbits w) with
  | .ok i => some i
  | .error _ => none

end Sys2Proof
end

