-- ==== Sys2Proof/Machine/Fetch.lean ====
section
/-! DEFINITION. How the block takes its next command from the command port (`spec/20_memory.md` R83), and its answer to a frame
that is no operation (`spec/30_encoding.md` R93, R97). -/

namespace Sys2Proof.Machine

/-- The oldest command at the command port, and the state without it; `none` when the host has presented nothing (log entry 1). -/
def State.takeFrame (s : State) : Option (Frame × State) :=
  match s.pending with
  | [] => none
  | f :: rest => some (f, { s with pending := rest })

/-- A frame given to the command port before every other. -/
def State.presentFirst (s : State) (f : Frame) : State := { s with pending := f :: s.pending }

/-- The answer to a frame that the decoder rejects: `ILLEGAL` for the two cases of R97, the model's fault for a frame whose
number of words R101 does not admit (log entry 3). -/
def answerDecodeError (e : DecodeError) (s : State) : Result :=
  match e with
  | .unallocatedOp => answerIllegal s
  | .illegalField => answerIllegal s
  | .wordCount => .fault .wordCount

end Sys2Proof.Machine
end

