-- ==== Sys2Proof/Machine/Step.lean ====
section
/-! DEFINITION. One step of the block: the oldest command at the port is taken, decoded and run to completion
(`spec/60_exceptions.md` R371); with no command at the port the state stays as it is. -/

namespace Sys2Proof.Machine

/-- One step. With nothing at the command port the state stays as it is: "between operations no state changes" (R371, log entry
11). -/
def step (s : State) : Host.Outcome State Fault Refusal :=
  match s.takeFrame with
  | none => .next s
  | some (f, s1) =>
    match decode f with
    | .ok i => exec i s1
    | .error e => answerDecodeError e s1

/-- The state with an instruction, given as one number, at the head of the command port (log entry 1). -/
def State.withFetchWord (s : State) (nbits w : Nat) : State := s.presentFirst (tableFrame nbits w)

end Sys2Proof.Machine
end

