-- ==== Sys2Proof/Safety.lean ====
section
/-! DEFINITION. The words claims use: the answers an operation gives, the causes of `FAIL` and `ILLEGAL` as the tables of
`spec/60_exceptions.md` list them, the transitions as the tables of `spec/44_v8_engine.md` and `spec/46_facade_host.md` list
them, and the invariants between operations. -/

namespace Sys2Proof
namespace Machine

/-! ### Answers -/

/-- The state with a response and nothing else changed. -/
def State.answered (s : State) (st : Status) (results samples : List Word) (events : List Event) : State :=
  { s with resp := ⟨some st, results, samples, events⟩ }

/-- The state with an `OK` response and nothing else changed. -/
def State.answeredOk (s : State) (results samples : List Word) (events : List Event) : State :=
  s.answered .ok results samples events

/-! ### Parts of a next state that several operations share -/

/-- The words `vs` stand at 0, 1, ... of the memory after; every other word reads as before. -/
def storedFrom {w : Nat} (before after : Ram w) (vs : List (BitVec w)) : Prop :=
  ∀ a : Nat, ramRead after a = if a < vs.length then vs.getD a 0#w else ramRead before a

/-- The state with everything that a scheme selection writes as it is in `d` (`spec/43_fsk_engine.md` R223, R224). -/
def State.withFskOf (s d : State) : State :=
  { s with fsk := d.fsk, iq := d.iq, chan := d.chan, codec := d.codec, txq := d.txq }

/-- The state after the end of the answer tone (`spec/44_v8_engine.md` R276): `d` is what the selection of V21 leaves, `tone` are
the transmitter's registers, `out` is the outgoing-menu buffer. -/
def State.answerToneDone (s d : State) (tone : ToneTx) (out : Ram 8) : State :=
  { s.withFskOf d with
    fsk := { d.fsk with txch := 1#1, rxch := 0#1, txen := true }
    tone := tone
    v8 := { s.v8 with
      phase := .sentAnsam
      out := out
      outlen := BitVec.ofNat 5 (menuOctets (txItems s)).length
      cursor := 0#16 } }

/-- The scheme the negotiated hook selects (`spec/46_facade_host.md` R340); the parameter is open (log entry 4). -/
def State.dataSchemeId (s : State) : Byte :=
  if schemeUsable s.srate Config.dataScheme.toNat then Config.dataScheme else 0#8

/-- The state after the negotiated hook in call state `V8` (`spec/46_facade_host.md` R340), the V.8 registers apart: `d` is what
the selection of the data scheme leaves. -/
def State.dataPhase (s d : State) : State :=
  { s.withFskOf d with
    callState := .data
    timerPend := s.timerPend ||| 0b10#2
    fsk :=
      { d.fsk with
        txch := if d.fsk.nch = 2#2 ∧ s.v8.role = .send then 1#1 else d.fsk.txch
        rxch := if d.fsk.nch = 2#2 ∧ s.v8.role = .send then 0#1 else d.fsk.rxch
        txen := true } }

/-! ### The winner of a block (`spec/42_tone_engine.md` R203 to R205) -/

/-- `j` is `argmax(p[0 .. m-1])`: the lowest index of a largest value (R203). -/
def strongest (m : Nat) (p : Nat → Int) (j : Nat) : Prop :=
  j < m ∧ (∀ i : Nat, i < m → p i ≤ p j) ∧ (∀ i : Nat, i < j → p i < p j)

/-- The powers `p` of the units select the frequency pair `f1`, `f2`: the strongest of subset A reaches the threshold; in the
single variant there is no second frequency; in the dual variant the strongest of subset B reaches it too, and the weaker of
the two is at least 1/16 of the stronger (R204). -/
def pairSelected (dual : Bool) (det : Detector) (p : Nat → Int) (f1 f2 : Nat) : Prop :=
  ∃ a : Nat, strongest det.na.toNat p a ∧ 2 ^ 30 ≤ p a ∧ f1 = (vget det.fa 0#32 a).toNat ∧
    if dual then
      ∃ b : Nat, strongest det.nb.toNat (fun j => p (8 + j)) b ∧ 2 ^ 30 ≤ p (8 + b) ∧
        max (p a) (p (8 + b)) / 16 ≤ min (p a) (p (8 + b)) ∧ f2 = (vget det.fb 0#32 b).toNat
    else f2 = 0

/-- Candidate `i` has exactly this frequency pair (R205). -/
def candidateHas (det : Detector) (f1 f2 : Nat) (i : Nat) : Prop :=
  (toneDesc (vget det.candId 0#8 i).toNat).f1 = f1 ∧ (toneDesc (vget det.candId 0#8 i).toNat).f2 = f2

/-- `c` is what a complete block selects: the first candidate with the selected pair; 0 where no pair is selected or no
candidate has it (R204). -/
def blockWinner (dual : Bool) (det : Detector) (p : Nat → Int) (c : Byte) : Prop :=
  (∃ f1 f2 i : Nat, pairSelected dual det p f1 f2 ∧ i < det.n.toNat ∧ candidateHas det f1 f2 i ∧
    (∀ j : Nat, j < i → ¬ candidateHas det f1 f2 j) ∧ c = vget det.candId 0#8 i) ∨
  ((∀ f1 f2 i : Nat, pairSelected dual det p f1 f2 → i < det.n.toNat → ¬ candidateHas det f1 f2 i) ∧ c = 0#8)

/-- What R206 makes of a block that selects `c`: the class, the id reported, the new `DET_CAND` and the new `DET_HITS`. -/
def blockClass (srate : Word) (det : Detector) (c : Byte) : ToneClass × Byte × Byte × Word :=
  let hits := if c = det.cand then det.hits + 1#32 else 1#32
  let dur : Int := (hits.toNat : Int) * 256
  let samples := fun ms : Nat => (((BitVec.ofNat 32 ((ms * srate.toNat) / 1000) : Word).toNat : Nat) : Int)
  let d := toneDesc c.toNat
  if c = 0#8 then (.none, 0#8, 0#8, 0#32)
  else if d.playMs ≠ 0 ∧ samples d.playMs < dur then (.noneWithReset, c, 0#8, 0#32)
  else if dur < samples d.debMs then (.inProgress, c, c, hits)
  else if dur - 256 < samples d.debMs then (.new, c, c, hits)
  else (.continuing, c, c, hits)

/-! ### Encodings -/

/-- The command word with these three fields, followed by these words, is the instruction (`spec/30_encoding.md` R90, R91). -/
def reads (op sel : BitVec 8) (imm : BitVec 16) (args samples : List Word) (i : Instr) : Prop :=
  decode ⟨mkCw op sel imm, args, samples⟩ = .ok i

/-! ### Causes of `ILLEGAL` (`spec/60_exceptions.md` R357) -/

/-- What R101 lets a field carry: 0 only, a number below a bound, or every value. -/
inductive FieldRule where
  | zero
  | below (n : Nat)
  | any
  deriving DecidableEq, Repr

/-- The field carries a number the rule lets it carry. -/
def FieldRule.admits (r : FieldRule) (v : Nat) : Bool :=
  match r with
  | .zero => decide (v = 0)
  | .below n => decide (v < n)
  | .any => true

/-- A row of the operation map: operation code, rule of `sel`, rule of `imm`. -/
structure FieldRow where
  op : Nat
  sel : FieldRule
  imm : FieldRule
  deriving DecidableEq, Repr

/-- The 53 rows of the operation map (`spec/30_encoding.md` R101, R93). -/
def fieldRows : List FieldRow :=
  [⟨0x00, .zero, .zero⟩, ⟨0x01, .zero, .zero⟩, ⟨0x02, .zero, .zero⟩, ⟨0x03, .zero, .zero⟩, ⟨0x04, .any, .any⟩,
   ⟨0x05, .any, .any⟩] ++
  [⟨0x10, .zero, .zero⟩, ⟨0x11, .zero, .zero⟩, ⟨0x12, .zero, .zero⟩, ⟨0x13, .below 16, .any⟩, ⟨0x14, .below 16, .any⟩,
   ⟨0x15, .below 16, .zero⟩, ⟨0x16, .below 4, .any⟩, ⟨0x17, .below 8, .zero⟩] ++
  [⟨0x20, .below 3, .below 2⟩, ⟨0x21, .below 3, .below 256⟩, ⟨0x22, .below 3, .zero⟩, ⟨0x23, .below 3, .below 2⟩,
   ⟨0x24, .below 3, .zero⟩] ++
  [⟨0x30, .any, .any⟩, ⟨0x31, .zero, .zero⟩, ⟨0x32, .zero, .any⟩, ⟨0x33, .zero, .zero⟩, ⟨0x34, .zero, .any⟩,
   ⟨0x35, .zero, .any⟩, ⟨0x36, .zero, .any⟩, ⟨0x37, .zero, .zero⟩] ++
  [⟨0x40, .any, .zero⟩, ⟨0x41, .below 2, .zero⟩, ⟨0x42, .below 2, .zero⟩, ⟨0x43, .zero, .below 2⟩, ⟨0x44, .zero, .any⟩,
   ⟨0x45, .zero, .any⟩, ⟨0x46, .zero, .below 256⟩, ⟨0x47, .zero, .zero⟩, ⟨0x48, .zero, .below 2⟩] ++
  [⟨0x50, .below 2, .any⟩, ⟨0x51, .zero, .zero⟩, ⟨0x52, .zero, .below 256⟩, ⟨0x53, .zero, .zero⟩, ⟨0x54, .zero, .zero⟩,
   ⟨0x55, .zero, .any⟩, ⟨0x56, .zero, .any⟩, ⟨0x57, .zero, .zero⟩, ⟨0x58, .zero, .below 2⟩] ++
  [⟨0x60, .any, .zero⟩, ⟨0x61, .zero, .zero⟩, ⟨0x62, .zero, .zero⟩, ⟨0x63, .any, .zero⟩, ⟨0x64, .zero, .any⟩,
   ⟨0x65, .zero, .any⟩, ⟨0x66, .zero, .below 2⟩, ⟨0x67, .below 2, .zero⟩]

/-- `op` is one of the 53 values of R101. -/
def cwAllocated (cw : Word) : Bool := fieldRows.any (fun r => r.op == (cwOp cw).toNat)

/-- Every field of the command word carries what its row lets it carry; a `V8_START` with role `LISTEN` has no tone (R357). -/
def cwFieldsOk (cw : Word) : Bool :=
  fieldRows.all (fun r => r.op != (cwOp cw).toNat || (r.sel.admits (cwSel cw).toNat && r.imm.admits (cwImm cw).toNat)) &&
    (decide ((cwOp cw).toNat ≠ 0x50) || decide ((cwSel cw).toNat ≠ 1) || decide ((cwImm cw).toNat = 0))

/-! ### Causes of `FAIL` (`spec/60_exceptions.md` R358) -/

/-- Every register id of `spec/45_control.md` R316 with the number of its indices. -/
def regRanges : List (Nat × Nat) :=
  [(0x0000, 1), (0x0001, 1), (0x0002, 1), (0x0003, 1), (0x0100, 16), (0x0101, 16), (0x0102, 16), (0x0103, 16),
   (0x0104, 16), (0x0105, 16), (0x0106, 16), (0x0110, 4), (0x0200, 3), (0x0201, 3), (0x0202, 3), (0x0203, 3), (0x0204, 3),
   (0x0205, 3)] ++
  [(0x0300, 1), (0x0301, 1), (0x0302, 1), (0x0303, 1), (0x0304, 1), (0x0305, 1), (0x0306, 1), (0x0307, 1), (0x0308, 1),
   (0x0309, 1), (0x030A, 1), (0x030B, 1), (0x030C, 1), (0x030D, 1), (0x030E, 1), (0x030F, 1), (0x0310, 1)] ++
  [(0x0400, 1), (0x0401, 1), (0x0402, 1), (0x0403, 1), (0x0404, 1), (0x0405, 1), (0x0410, 16), (0x0411, 8), (0x0412, 8)] ++
  [(0x0500, 1), (0x0501, 1), (0x0502, 1), (0x0503, 1), (0x0504, 1), (0x0510, 2), (0x0511, 2), (0x0512, 2), (0x0513, 2),
   (0x0514, 2), (0x0520, 2), (0x0521, 2), (0x0522, 2), (0x0530, 2), (0x0531, 2), (0x0532, 2), (0x0540, 1), (0x0541, 1)] ++
  [(0x0600, 1), (0x0601, 1), (0x0602, 1), (0x0603, 1), (0x0604, 1), (0x0605, 1), (0x0606, 1), (0x0607, 1), (0x0608, 1),
   (0x0609, 1), (0x060A, 1)]

/-- Every memory id of `spec/20_memory.md` R61 with its size in words. -/
def memRanges : List (Nat × Nat) :=
  [(0, 1024), (1, 2048), (2, 2048), (3, 1024), (4, 64), (5, 16), (6, 16), (7, 16), (8, 16), (9, 512), (10, 128)]

/-- `id` is listed and `k` is below its bound. -/
def inRanges (ranges : List (Nat × Nat)) (id k : Nat) : Bool := ranges.any (fun r => r.1 == id && decide (k < r.2))

/-- Table R358: the operation's cause of `FAIL` holds. An operation that is not in the table has none. -/
def failCause (i : Instr) (s : State) : Bool :=
  match i with
  | .setRate hz => decide (hz = 0#32)
  | .rdReg index id => !inRanges regRanges id.toNat index.toNat
  | .rdMem mem addr => !inRanges memRanges mem.toNat addr.toNat
  | .gzInit _ n _ => decide (n = 0#16)
  | .iqBuild _ len _ => decide (len.toNat = 0) || decide (512 < len.toNat)
  | .frmLoad k _ => decide (s.codec[k].bn ≠ 0#4)
  | .toneStart id so _ _ =>
    !toneValid id.toNat ||
      !(decide (so = 0xFFFF#16) || decide (so = 0#16) || (decide (so.toNat ≤ 0xFF) && toneValid so.toNat))
  | .detCfg ids =>
    decide (ids.length = 0) || decide (16 < ids.length) ||
      ids.any (fun a => decide (0xFF < a.toNat) || !toneValid a.toNat) ||
      decide (8 < (subsetA (ids.map BitVec.toNat)).length) || decide (8 < (subsetB (ids.map BitVec.toNat)).length)
  | .fskSelect id => decide (id ≠ 0#8) && !schemeUsable s.srate id.toNat
  | .fskTxch c => decide (s.fsk.nch.toNat ≤ c.val)
  | .fskRxch c => decide (s.fsk.nch.toNat ≤ c.val)
  | .txByte _ => decide (s.txq.count.toNat = 64)
  | .v8Start .send tone =>
    decide (0xFF < tone.toNat) || !toneValid tone.toNat || !schemeUsable s.srate Config.v8Scheme.toNat
  | .v8Start .listen _ => !schemeUsable s.srate Config.v8Scheme.toNat
  | .v8AddCap item => !itemValid item || (txItems s).contains item || decide (s.v8.ntx.toNat = 16)
  | .restart t => !toneValid t.toNat
  | .setOffHook t => decide (s.callState ≠ .onHook) || !toneValid t.toNat
  | .timerFire w =>
    !s.timerPending w || (decide (w = .postDial) && !schemeUsable s.srate Config.v8Scheme.toNat)
  | .nop | .reset | .getRate | .phaseInc _ | .phaseInv | .sine _ | .gzAcc _ _ | .gzPower _ | .correlate _ _ _ | .frmCfg _ _
  | .frmPop _ | .frmPush _ _ | .frmReset _ | .toneStartF _ _ _ _ | .toneTx _ | .toneStop | .detSingle _ | .detDual _
  | .detReset | .fskTxen _ | .fskTx _ | .fskRx _ | .dataPopTxBit | .dataPushRxBit _ | .v8Stop | .v8GetTxcaps
  | .v8GetRxcaps | .v8Tx _ | .v8Rx _ | .v8PopTxBit | .v8PushRxBit _ | .isOnHook | .setOnHook | .pull _ | .push _
  | .serialBit _ => false

/-! ### Transitions -/

/-- The operation re-initialises the block or puts it on hook (`spec/10_state.md` R47). -/
def reinitialises (i : Instr) : Bool :=
  match i with
  | .reset => true
  | .setRate _ => true
  | .setOnHook => true
  | .restart _ => true
  | _ => false

/-- The rows of the transition table of `spec/44_v8_engine.md` R292 that emit an event. -/
def phasePair (old new : Phase) : Bool :=
  decide (new = .txAns) || decide (new = .rxAns) || decide (new = .stopped) ||
  decide (old = .txAns ∧ new = .sentAnsam) || decide (old = .rxAns ∧ new = .waitCm) ||
  decide (old = .sentAnsam ∧ new = .sentCm) || decide (old = .sentAnsam ∧ new = .sentJm) ||
  decide (old = .waitCm ∧ new = .sentJm) || decide (old = .sentCm ∧ new = .negotiated) ||
  decide (old = .sentJm ∧ new = .negotiated)

/-- The phase after a list of events, when each `EV_V8_STATE` starts at the phase reached so far, changes it and is a row of
R292; `none` when one is not. -/
def phaseTrace : Phase → List Event → Option Phase
  | p, [] => some p
  | p, e :: es =>
    match e with
    | .v8State old new => if old = p ∧ old ≠ new ∧ phasePair old new then phaseTrace new es else none
    | .toneDone _ | .rxByte _ | .timerReq _ => phaseTrace p es

/-- The rows of the call-state table of `spec/46_facade_host.md` R345 by the operation that is their cause. A V.8 session
reaches `NEGOTIATED` in every operation that gives it bits (`spec/10_state.md` R50). -/
def callRow (i : Instr) (old new : CallState) : Bool :=
  decide (old = new) ||
  match old, new with
  | _, .onHook =>
    match i with
    | .setOnHook | .reset | .setRate _ => true
    | _ => false
  | old, .offHookIdle =>
    match i with
    | .setOffHook _ => decide (old = .onHook)
    | .restart _ => true
    | _ => false
  | .offHookIdle, .dialing =>
    match i with
    | .push _ => true
    | _ => false
  | .dialing, .v8 =>
    match i with
    | .timerFire .postDial => true
    | _ => false
  | .v8, .data =>
    match i with
    | .push _ | .v8Rx _ | .v8PushRxBit _ => true
    | _ => false
  | _, _ => false

/-! ### Invariants between operations -/

/-- The rate is at least 1 (`spec/10_state.md` R23). -/
def State.rateOk (s : State) : Prop := 1 ≤ s.srate.toNat

/-- While an answer tone is sent or awaited, V21 is usable at the rate: the start checked it (`spec/44_v8_engine.md` R265). -/
def State.startOk (s : State) : Prop :=
  (s.v8.phase = .txAns ∨ s.v8.phase = .rxAns) → schemeUsable s.srate Config.v8Scheme.toNat = true

/-- Every RAM is in its canonical form (`Ram`): a Bool, so that it can be evaluated. -/
def State.memoryWf (s : State) : Bool :=
  s.iq.toList.all (fun x => ramWf 512 x.i && ramWf 512 x.q) && s.chan.toList.all (fun x => ramWf 512 x.ring) &&
  ramWf 64 s.txq.mem && ramWf 16 s.v8.txcaps && ramWf 16 s.v8.rxcaps && ramWf 16 s.v8.rxbuf && ramWf 16 s.v8.out

/-- The set counts are in range, 0 to 16 (`spec/10_state.md` R45). -/
def State.setCountsOk (s : State) : Prop := s.v8.ntx.toNat ≤ 16 ∧ s.v8.nrx.toNat ≤ 16

/-- Memory, with what keeps every write inside its memory: the set counts in range, and V21 usable before the engine selects
it. -/
def State.memoryInv (s : State) : Prop := s.memoryWf = true ∧ s.setCountsOk ∧ s.startOk

/-- "between operations a tone is never active, finite and `LEFT = 0`" (`spec/10_state.md` R34, `spec/42_tone_engine.md`
R186). -/
def State.toneInv (s : State) : Prop := ¬(s.tone.active = true ∧ s.tone.finite = true ∧ s.tone.left = 0#32)

/-- "Between operations `DET_FILL < P_DET_BLOCK`" (`spec/10_state.md` R38). -/
def State.detInv (s : State) : Prop := s.det.fill.toNat < Config.detBlock

/-- The scheme invariant (`spec/10_state.md` R39). -/
def State.schemeInv (s : State) : Prop :=
  (s.fsk.scheme = 0#8 ↔ s.fsk.nch = 0#2) ∧
    (0 < s.fsk.nch.toNat → s.fsk.txch.toNat < s.fsk.nch.toNat ∧ s.fsk.rxch.toNat < s.fsk.nch.toNat)

/-- The set invariants and the cursor invariant (`spec/10_state.md` R46), with the ranges of the two counts. -/
def State.v8Inv (s : State) : Prop :=
  s.setCountsOk ∧
  (txItems s).Nodup ∧ (∀ i ∈ txItems s, itemValid i = true) ∧
  (rxItems s).Nodup ∧ (∀ i ∈ rxItems s, itemValid i = true) ∧
  s.v8.cursor.toNat < 20 + 10 * s.v8.outlen.toNat

/-- The two timer invariants (`spec/46_facade_host.md` R326). -/
def State.timerInv (s : State) : Prop :=
  (s.timerPend.getLsbD 0 = true → s.callState = .dialing) ∧ (s.timerPend.getLsbD 1 = true → s.callState = .data)

/-- The ranges of `FRM_BN` and the builder invariant (`spec/10_state.md` R29, R30), for every codec. -/
def State.builderInv (s : State) : Prop :=
  ∀ k : Fin 3, s.codec[k].bn.toNat ≤ 10 ∧
    (s.codec[k].bn.toNat = 10 → s.codec[k].bframe.getLsbD 9 = false ∧ s.codec[k].bframe.getLsbD 0 = true)

/-- The ranges of `spec/10_state.md`: `GZ_COEFF` (R24), `IQ_LEN` (R26), `FRM_BN` (R29), `DET_N`, `DET_NA`, `DET_NB` (R36),
`DET_FILL` between operations (R38), `FSK_NCH` (R39), `FSK_SYMLEN` (R40), `TXQ_COUNT` (R43), `V8_NTX`, `V8_NRX`, `V8_RXLEN`,
`V8_OUTLEN` (R45); with the condition under which the V.8 engine selects V21. -/
def State.rangeInv (s : State) : Prop :=
  (∀ u : Fin 16, -32768 ≤ s.gz[u].coeff.toInt ∧ s.gz[u].coeff.toInt ≤ 32768) ∧
  (∀ t : Fin 4, s.iq[t].len.toNat ≤ 512) ∧
  (∀ k : Fin 3, s.codec[k].bn.toNat ≤ 10) ∧
  s.det.n.toNat ≤ 16 ∧ s.det.na.toNat ≤ 8 ∧ s.det.nb.toNat ≤ 8 ∧ s.det.fill.toNat < 256 ∧
  s.fsk.nch.toNat ≤ 2 ∧ (∀ c : Fin 2, s.chan[c].symlen.toNat ≤ 512) ∧
  s.txq.count.toNat ≤ 64 ∧ s.v8.ntx.toNat ≤ 16 ∧ s.v8.nrx.toNat ≤ 16 ∧ s.v8.rxlen.toNat ≤ 16 ∧ s.v8.outlen.toNat ≤ 16 ∧ s.startOk

/-! ### Runs of operations -/

/-- The operations of a list issued one after the other: the state after the last, and every response in order; `none` when
one does not answer. -/
def runAll : List Instr → State → Option (State × List Response)
  | [], s => some (s, [])
  | i :: is, s =>
    match exec i s with
    | .next t => (runAll is t).map (fun r => (r.1, t.resp :: r.2))
    | .fault _ => none
    | .refused _ => none

/-- `n` times: the operation `src` is issued and the bit it answers is given to the operation `sink`; the state after the
last, and the responses of the sink in order. -/
def relayBits (src : Instr) (sink : Bool → Instr) : Nat → State → Option (State × List Response)
  | 0, s => some (s, [])
  | n + 1, s =>
    match exec src s with
    | .next t =>
      match exec (sink (decide (t.resp.results = [1#32]))) t with
      | .next u => (relayBits src sink n u).map (fun r => (r.1, u.resp :: r.2))
      | .fault _ => none
      | .refused _ => none
    | .fault _ => none
    | .refused _ => none

end Machine
end Sys2Proof
end

