-- ==== Sys2Proof/Certificates/Slice0/Obligations.lean ====
section
/-! DEFINITION. The statements for the provers. -/

open Sys2Proof Sys2Proof.Machine

/-! ### Encoding and the step -/

/-- Every well-formed instruction, with every operand its encoding admits, is what the decoder reads from its encoding. -/
def Obligations.DecodeEncodeRoundTrip : Prop :=
  ∀ i : Instr, i.wellFormed = true → decode (encode i) = .ok i

/-- Every frame the decoder accepts is the encoding of the instruction it reads, and that instruction is well formed. -/
def Obligations.EncodeDecodeRoundTrip : Prop :=
  ∀ (f : Frame) (i : Instr), decode f = .ok i → encode i = f ∧ i.wellFormed = true

/-- R357: the decoder rejects a command word for its operation code, or for a field, exactly where the table of causes has it,
whatever words come with it; such a command is answered `ILLEGAL` and changes nothing. -/
def Obligations.IllegalExactly : Prop :=
  (∀ f : Frame, decode f = .error .unallocatedOp ↔ cwAllocated f.cw = false) ∧
  (∀ f : Frame, decode f = .error .illegalField ↔ cwAllocated f.cw = true ∧ cwFieldsOk f.cw = false) ∧
  (∀ (s : State) (f : Frame) (rest : List Frame), s.pending = f :: rest →
    cwAllocated f.cw = false ∨ cwFieldsOk f.cw = false →
    step s = .next (State.answered { s with pending := rest } .illegal [] [] []))

/-- Words written out from the operation map: operation code in bits 31..24, `sel` in 23..16, `imm` in 15..0. -/
def Obligations.DecodedWords : Prop :=
  decode ⟨0x00000000#32, [], []⟩ = .ok .nop ∧
  decode ⟨0x04020201#32, [], []⟩ = .ok (.rdReg 2#8 0x0201#16) ∧
  decode ⟨0x13030100#32, [77000#32], []⟩ = .ok (.gzInit 3 256#16 77000#32) ∧
  decode ⟨0x17050000#32, [9#32], []⟩ = .ok (.correlate 1 .quadrature 9#32) ∧
  decode ⟨0x21010041#32, [], []⟩ = .ok (.frmLoad 1 0x41#8) ∧
  decode ⟨0x3005FFFF#32, [0xFFFFFFFF#32, 0x4000#32], []⟩ = .ok (.toneStart 5#8 0xFFFF#16 0xFFFFFFFF#32 0x4000#32) ∧
  decode ⟨0x45000002#32, [], [7#32, 8#32]⟩ = .ok (.fskRx [7#32, 8#32]) ∧
  decode ⟨0x50010000#32, [], []⟩ = .ok (.v8Start .listen 0#16) ∧
  decode ⟨0x67010000#32, [], []⟩ = .ok (.timerFire .preData)

/-- A step runs the instruction that the oldest command at the port decodes to, on the state without that command; with no
command it changes nothing (log entry 11); a frame with a number of words that the operation map does not admit stops it (log
entry 3); it never refuses. -/
def Obligations.StepRunsDecoded : Prop :=
  (∀ (s : State) (f : Frame) (rest : List Frame) (i : Instr), s.pending = f :: rest → decode f = .ok i →
    step s = exec i { s with pending := rest }) ∧
  (∀ s : State, s.pending = [] → step s = .next s) ∧
  (∀ (s : State) (f : Frame) (rest : List Frame), s.pending = f :: rest →
    (decode f = .error .wordCount ↔ step s = .fault .wordCount)) ∧
  (∀ (s : State) (f : Frame) (rest : List Frame), s.pending = f :: rest → decode f ≠ .error .wordCount →
    ∃ t, step s = .next t)

/-- R358: every operation with operands that have an encoding answers a next state, with status `FAIL` exactly where the table
of causes has it and `OK` everywhere else. -/
def Obligations.FailExactly : Prop :=
  ∀ (i : Instr) (s : State), i.wellFormed = true →
    ∃ t, exec i s = .next t ∧ t.resp.status = some (if failCause i s = true then Status.fail else Status.ok)

/-- R361: an operation that answers `FAIL` or `ILLEGAL` changes nothing and answers no result word, no sample and no event; and
what an operation does never depends on the response of an earlier one, so that after a refused attempt every operation
behaves as if the attempt had not been made. -/
def Obligations.RefusedChangesNothing : Prop :=
  (∀ (i : Instr) (s : State) (r : Response), exec i { s with resp := r } = exec i s) ∧
  (∀ (i : Instr) (s t : State) (st : Status), exec i s = .next t → t.resp.status = some st → st ≠ .ok →
    t = s.answered st [] [] []) ∧
  (∀ (s : State) (f : Frame) (rest : List Frame), s.pending = f :: rest →
    decode f = .error .unallocatedOp ∨ decode f = .error .illegalField →
    step s = .next (State.answered { s with pending := rest } .illegal [] [] []))

/-! ### The machine as a whole -/

/-- R56: the reset value of every register, and every RAM word 0. -/
def Obligations.ResetState : Prop :=
  State.reset.srate = 16000#32 ∧ State.reset.callState = .onHook ∧ State.reset.dialTone = 0#8 ∧
  State.reset.timerPend = 0#2 ∧
  (∀ u : Fin 16, State.reset.gz[u] = ⟨0#32, 0#16, 0#16, 0#64, 0#64⟩) ∧
  (∀ t : Fin 4, State.reset.iq[t].len = 0#16 ∧
    ∀ a, ramRead State.reset.iq[t].i a = 0#16 ∧ ramRead State.reset.iq[t].q a = 0#16) ∧
  (∀ k : Fin 3, State.reset.codec[k] = ⟨.lsbFirst, 0x3FF#10, 0#4, .idle, 0#3, 0#8⟩) ∧
  State.reset.tone = ⟨false, 0#8, 0#32, 0#32, false, 0#32, 0#32, 0#32, 0#32, 0#16, 0#16, 0#32, 0#32, false, 0#32, 0#8, 0#32⟩ ∧
  State.reset.det.n = 0#5 ∧ State.reset.det.na = 0#4 ∧ State.reset.det.nb = 0#4 ∧
  (∀ i : Fin 16, State.reset.det.candId[i] = 0#8) ∧
  (∀ j : Fin 8, State.reset.det.fa[j] = 0#32 ∧ State.reset.det.fb[j] = 0#32) ∧
  State.reset.det.fill = 0#16 ∧ State.reset.det.cand = 0#8 ∧ State.reset.det.hits = 0#32 ∧
  State.reset.fsk = ⟨0#8, 0#2, 0#1, 0#1, false⟩ ∧
  (∀ c : Fin 2, (∀ a, ramRead State.reset.chan[c].ring a = 0#32) ∧
    ∃ ring, State.reset.chan[c] = ⟨0#32, 0#32, 0#32, 0#16, 0#4, 0#32, 0#32, true, 0#32, true, 0#9, ring⟩) ∧
  (∀ a, ramRead State.reset.txq.mem a = 0#8) ∧ State.reset.txq.head = 0#6 ∧ State.reset.txq.count = 0#7 ∧
  State.reset.v8.phase = .idle ∧ State.reset.v8.role = .send ∧ State.reset.v8.ntx = 0#5 ∧ State.reset.v8.nrx = 0#5 ∧
  State.reset.v8.rxlen = 0#5 ∧ State.reset.v8.ck = 0#32 ∧ State.reset.v8.ckv = false ∧ State.reset.v8.outlen = 0#5 ∧
  State.reset.v8.cursor = 0#16 ∧ State.reset.v8.sync = 0x3FF#10 ∧ State.reset.v8.zrun = 0#2 ∧
  (∀ a, ramRead State.reset.v8.txcaps a = 0#8 ∧ ramRead State.reset.v8.rxcaps a = 0#8 ∧
    ramRead State.reset.v8.rxbuf a = 0#8 ∧ ramRead State.reset.v8.out a = 0#8)

/-- R292, R47: in the events of an operation every phase change starts at the phase reached so far and is a row of the
transition table, and the operation ends in the phase reached last; an operation that re-initialises goes to `IDLE` and emits
no phase change. -/
def Obligations.PhaseTransitions : Prop :=
  (∀ (i : Instr) (s t : State), reinitialises i = false → exec i s = .next t →
    phaseTrace s.v8.phase t.resp.events = some t.v8.phase) ∧
  (∀ (i : Instr) (s t : State), reinitialises i = true → exec i s = .next t → t.resp.status = some .ok →
    t.v8.phase = .idle ∧ phaseTrace .idle t.resp.events = some .idle)

/-- R345: every change of the call state is a row of its transition table, made by the operation the row names (or, for the row
`V8` to `DATA`, by an operation that gives the V.8 engine bits, R50). -/
def Obligations.CallTransitions : Prop :=
  ∀ (i : Instr) (s t : State), s.timerInv → exec i s = .next t → callRow i s.callState t.callState = true

/-- Every step keeps every memory in its canonical form (with the two facts that keep each write inside its memory). -/
def Obligations.MemoryInvariant : Prop :=
  ∀ s t : State, s.memoryInv → step s = .next t → t.memoryInv

/-- R186, R38: every step keeps a tone from being active, finite and out of samples, and a block of the classifier from being
full. -/
def Obligations.ToneDetectorInvariant : Prop :=
  (∀ s t : State, s.toneInv → step s = .next t → t.toneInv) ∧
  (∀ s t : State, s.detInv → step s = .next t → t.detInv)

/-- R39: every step keeps the scheme invariant. -/
def Obligations.SchemeInvariant : Prop :=
  ∀ s t : State, s.schemeInv → step s = .next t → t.schemeInv

/-- R46: every step keeps both capability sets made of distinct valid items and the cursor inside the outgoing sequence. -/
def Obligations.CapabilityInvariant : Prop :=
  ∀ s t : State, s.v8Inv → step s = .next t → t.v8Inv

/-- R326: every step keeps the two timer invariants. -/
def Obligations.TimerInvariant : Prop :=
  ∀ s t : State, s.timerInv → step s = .next t → t.timerInv

/-- R29, R30: every step keeps the builder invariant of every codec. -/
def Obligations.BuilderInvariant : Prop :=
  ∀ s t : State, s.builderInv → step s = .next t → t.builderInv

/-- Every step keeps every register with a stated range inside it (R24, R26, R29, R36, R38, R39, R40, R43, R45). -/
def Obligations.RangeInvariant : Prop :=
  ∀ s t : State, s.rangeInv → step s = .next t → t.rangeInv

/-- The state after reset meets every invariant. -/
def Obligations.ResetInvariants : Prop :=
  State.reset.rateOk ∧ State.reset.memoryInv ∧ State.reset.toneInv ∧ State.reset.detInv ∧ State.reset.schemeInv ∧
  State.reset.v8Inv ∧ State.reset.timerInv ∧ State.reset.builderInv ∧ State.reset.rangeInv

/-- Registers that few operations write: `SRATE` by `RESET` and `SET_RATE` alone, and it stays at least 1 (R23); `FRM_ORDER[k]`
by `FRM_CFG k`, `RESET` and `SET_RATE` alone (R28); the transmit capability set by `V8_ADD_CAP`, `RESET` and `SET_RATE` alone
(R263, R327). -/
def Obligations.KeptRegisters : Prop :=
  (∀ s t : State, s.rateOk → step s = .next t → t.rateOk) ∧
  (∀ (i : Instr) (s t : State), exec i s = .next t → i ≠ .reset → (∀ hz, i ≠ .setRate hz) →
    t.srate = s.srate ∧
    (∀ k : Fin 3, (∀ o, i ≠ .frmCfg k o) → t.codec[k].order = s.codec[k].order) ∧
    ((∀ item, i ≠ .v8AddCap item) → t.v8.ntx = s.v8.ntx ∧ t.v8.txcaps = s.v8.txcaps))

/-! ### Control and inspection -/

/-- R310, R311, R312, R313: the answers and the states of `NOP`, `RESET`, `SET_RATE` and `GET_RATE`. -/
def Obligations.ControlResults : Prop :=
  (decode ⟨mkCw 0x00#8 0#8 0#16, [], []⟩ = .ok .nop ∧ ∀ s, exec .nop s = .next (s.answeredOk [] [] [])) ∧
  (decode ⟨mkCw 0x01#8 0#8 0#16, [], []⟩ = .ok .reset ∧
    ∀ s : State, exec .reset s = .next (State.answeredOk { State.reset with pending := s.pending } [] [] [])) ∧
  (∀ hz : Word, decode ⟨mkCw 0x02#8 0#8 0#16, [hz], []⟩ = .ok (.setRate hz) ∧
    ∀ s : State, exec (.setRate hz) s =
      if hz = 0#32 then .next (s.answered .fail [] [] [])
      else .next (State.answeredOk { State.reset with srate := hz, pending := s.pending } [] [] [])) ∧
  (decode ⟨mkCw 0x03#8 0#8 0#16, [], []⟩ = .ok .getRate ∧
    ∀ s : State, exec .getRate s = .next (s.answeredOk [s.srate] [] []))

/-- R314, R315, R316, R62: what `RD_REG` reads for every register id and index and `RD_MEM` for every memory and address; neither
changes anything; an id, index, memory or address that names nothing is `FAIL`. -/
def Obligations.InspectionResults : Prop :=
  (∀ (index : BitVec 8) (id : BitVec 16), reads 0x04#8 index id [] [] (.rdReg index id)) ∧
  (∀ (mem : BitVec 8) (a : BitVec 16), reads 0x05#8 mem a [] [] (.rdMem mem a)) ∧
  ∀ s : State,
  (∀ (index : BitVec 8) (id : BitVec 16), inRanges regRanges id.toNat index.toNat = false →
    exec (.rdReg index id) s = .next (s.answered .fail [] [] [])) ∧
  (∀ (mem : BitVec 8) (a : BitVec 16), inRanges memRanges mem.toNat a.toNat = false →
    exec (.rdMem mem a) s = .next (s.answered .fail [] [] [])) ∧
  (let reg := fun (id : BitVec 16) (index : Nat) (v : Word) =>
      exec (.rdReg (BitVec.ofNat 8 index) id) s = .next (s.answeredOk [v] [] []);
    reg 0x0000#16 0 s.srate ∧ reg 0x0001#16 0 ((callStateCode s.callState).setWidth 32) ∧
    reg 0x0002#16 0 (s.dialTone.setWidth 32) ∧ reg 0x0003#16 0 (s.timerPend.setWidth 32) ∧
    (∀ u : Fin 16, reg 0x0100#16 u.val s.gz[u].coeff ∧ reg 0x0101#16 u.val (s.gz[u].n.setWidth 32) ∧
      reg 0x0102#16 u.val (s.gz[u].cnt.setWidth 32) ∧ reg 0x0103#16 u.val (s.gz[u].s1.extractLsb' 0 32) ∧
      reg 0x0104#16 u.val (s.gz[u].s1.extractLsb' 32 32) ∧ reg 0x0105#16 u.val (s.gz[u].s2.extractLsb' 0 32) ∧
      reg 0x0106#16 u.val (s.gz[u].s2.extractLsb' 32 32)) ∧
    (∀ t : Fin 4, reg 0x0110#16 t.val (s.iq[t].len.setWidth 32)) ∧
    (∀ k : Fin 3, reg 0x0200#16 k.val ((orderCode s.codec[k].order).setWidth 32) ∧
      reg 0x0201#16 k.val (s.codec[k].bframe.setWidth 32) ∧ reg 0x0202#16 k.val (s.codec[k].bn.setWidth 32) ∧
      reg 0x0203#16 k.val ((parserCode s.codec[k].pst).setWidth 32) ∧ reg 0x0204#16 k.val (s.codec[k].pk.setWidth 32) ∧
      reg 0x0205#16 k.val (s.codec[k].pacc.setWidth 32)) ∧
    reg 0x0300#16 0 (bitWord s.tone.active) ∧ reg 0x0301#16 0 (s.tone.id.setWidth 32) ∧ reg 0x0302#16 0 s.tone.inc1 ∧
    reg 0x0303#16 0 s.tone.inc2 ∧ reg 0x0304#16 0 (bitWord s.tone.has2) ∧ reg 0x0305#16 0 s.tone.ph1 ∧
    reg 0x0306#16 0 s.tone.ph2 ∧ reg 0x0307#16 0 s.tone.amInc ∧ reg 0x0308#16 0 s.tone.amPh ∧
    reg 0x0309#16 0 (s.tone.amMid.setWidth 32) ∧ reg 0x030A#16 0 (s.tone.amHalf.setWidth 32) ∧
    reg 0x030B#16 0 s.tone.revInt ∧ reg 0x030C#16 0 s.tone.revLeft ∧ reg 0x030D#16 0 (bitWord s.tone.finite) ∧
    reg 0x030E#16 0 s.tone.left ∧ reg 0x030F#16 0 (s.tone.succ.setWidth 32) ∧ reg 0x0310#16 0 s.tone.gain ∧
    reg 0x0400#16 0 (s.det.n.setWidth 32) ∧ reg 0x0401#16 0 (s.det.na.setWidth 32) ∧
    reg 0x0402#16 0 (s.det.nb.setWidth 32) ∧ reg 0x0403#16 0 (s.det.fill.setWidth 32) ∧
    reg 0x0404#16 0 (s.det.cand.setWidth 32) ∧ reg 0x0405#16 0 s.det.hits ∧
    (∀ i : Fin 16, reg 0x0410#16 i.val (s.det.candId[i].setWidth 32)) ∧
    (∀ j : Fin 8, reg 0x0411#16 j.val s.det.fa[j] ∧ reg 0x0412#16 j.val s.det.fb[j]) ∧
    reg 0x0500#16 0 (s.fsk.scheme.setWidth 32) ∧ reg 0x0501#16 0 (s.fsk.nch.setWidth 32) ∧
    reg 0x0502#16 0 (s.fsk.txch.setWidth 32) ∧ reg 0x0503#16 0 (s.fsk.rxch.setWidth 32) ∧
    reg 0x0504#16 0 (bitWord s.fsk.txen) ∧
    (∀ c : Fin 2, reg 0x0510#16 c.val s.chan[c].inc0 ∧ reg 0x0511#16 c.val s.chan[c].inc1 ∧
      reg 0x0512#16 c.val s.chan[c].binc ∧ reg 0x0513#16 c.val (s.chan[c].symlen.setWidth 32) ∧
      reg 0x0514#16 c.val (s.chan[c].shift.setWidth 32) ∧ reg 0x0520#16 c.val s.chan[c].modPh ∧
      reg 0x0521#16 c.val s.chan[c].modClk ∧ reg 0x0522#16 c.val (bitWord s.chan[c].modBit) ∧
      reg 0x0530#16 c.val s.chan[c].demClk ∧ reg 0x0531#16 c.val (bitWord s.chan[c].demEst) ∧
      reg 0x0532#16 c.val (s.chan[c].demWidx.setWidth 32)) ∧
    reg 0x0540#16 0 (s.txq.count.setWidth 32) ∧ reg 0x0541#16 0 (s.txq.head.setWidth 32) ∧
    reg 0x0600#16 0 ((phaseCode s.v8.phase).setWidth 32) ∧ reg 0x0601#16 0 ((roleCode s.v8.role).setWidth 32) ∧
    reg 0x0602#16 0 (s.v8.ntx.setWidth 32) ∧ reg 0x0603#16 0 (s.v8.nrx.setWidth 32) ∧
    reg 0x0604#16 0 (s.v8.rxlen.setWidth 32) ∧ reg 0x0605#16 0 s.v8.ck ∧ reg 0x0606#16 0 (bitWord s.v8.ckv) ∧
    reg 0x0607#16 0 (s.v8.outlen.setWidth 32) ∧ reg 0x0608#16 0 (s.v8.cursor.setWidth 32) ∧
    reg 0x0609#16 0 (s.v8.sync.setWidth 32) ∧ reg 0x060A#16 0 (s.v8.zrun.setWidth 32)) ∧
  (let rd := fun (mem a : Nat) (v : Word) =>
      exec (.rdMem (BitVec.ofNat 8 mem) (BitVec.ofNat 16 a)) s = .next (s.answeredOk [v] [] []);
    (∀ k : Fin 1024, rd 0 k.val (BitVec.ofInt 32 (sineRom k.val))) ∧
    (∀ (t : Fin 4) (n : Fin 512), rd 1 (t.val * 512 + n.val) ((ramRead s.iq[t].i n.val).signExtend 32) ∧
      rd 2 (t.val * 512 + n.val) ((ramRead s.iq[t].q n.val).signExtend 32)) ∧
    (∀ (c : Fin 2) (n : Fin 512), rd 3 (c.val * 512 + n.val) (ramRead s.chan[c].ring n.val)) ∧
    (∀ a : Fin 64, rd 4 a.val ((ramRead s.txq.mem a.val).setWidth 32)) ∧
    (∀ a : Fin 16, rd 5 a.val ((ramRead s.v8.txcaps a.val).setWidth 32) ∧
      rd 6 a.val ((ramRead s.v8.rxcaps a.val).setWidth 32) ∧ rd 7 a.val ((ramRead s.v8.rxbuf a.val).setWidth 32) ∧
      rd 8 a.val ((ramRead s.v8.out a.val).setWidth 32)) ∧
    (∀ (id : Fin 32) (j : Fin 16), rd 9 (id.val * 16 + j.val) (toneRomWord id.val j.val)) ∧
    (∀ (id : Fin 8) (j : Fin 16), rd 10 (id.val * 16 + j.val) (fskRomWord id.val j.val)))

/-! ### DSP primitives -/

/-- R130, R131, R132: an increment aliases at the sample rate; half the phase domain negates the sine exactly; the sine never
leaves -16384 .. 16384; the low 22 bits of the phase do not matter. -/
def Obligations.PhaseArithmetic : Prop :=
  (∀ f fs : Nat, 1 ≤ fs → phaseIncrement (f + 100 * fs) fs = phaseIncrement f fs) ∧
  (∀ ph : Word, sine (ph + 0x80000000#32) = - sine ph) ∧
  (∀ ph : Word, -16384 ≤ sine ph ∧ sine ph ≤ 16384) ∧
  (∀ ph ph' : Word, ph.extractLsb' 22 10 = ph'.extractLsb' 22 10 → sine ph = sine ph') ∧
  (∀ k : Fin 513, sineRom (512 - k.val) = sineRom k.val) ∧ (∀ k : Fin 512, sineRom (512 + k.val) = - sineRom k.val)

/-- R144, R145, R146: `PHASE_INC`, `PHASE_INV` and `SINE` answer their value and change nothing. -/
def Obligations.PhaseResults : Prop :=
  (∀ f : Word, decode ⟨mkCw 0x10#8 0#8 0#16, [f], []⟩ = .ok (.phaseInc f) ∧
    ∀ s : State, exec (.phaseInc f) s =
      .next (s.answeredOk [BitVec.ofNat 32 ((f.toNat * 2 ^ 32) / (100 * s.srate.toNat))] [] [])) ∧
  (decode ⟨mkCw 0x11#8 0#8 0#16, [], []⟩ = .ok .phaseInv ∧
    ∀ s : State, exec .phaseInv s = .next (s.answeredOk [0x80000000#32] [] [])) ∧
  (∀ ph : Word, decode ⟨mkCw 0x12#8 0#8 0#16, [ph], []⟩ = .ok (.sine ph) ∧
    ∀ s : State, exec (.sine ph) s = .next (s.answeredOk [BitVec.ofInt 32 (sineRom (ph.toNat / 2 ^ 22 % 1024))] [] []))

/-- R147, R149, R140: `GZ_INIT` sets the unit up with the coefficient of R135 and answers it; `GZ_POWER` answers the power of R139 and
clears the unit exactly when its block is complete; neither touches another unit or anything else. -/
def Obligations.GoertzelInitPower : Prop :=
  (∀ (u : Fin 16) (n : BitVec 16) (f : Word), reads 0x13#8 (BitVec.ofNat 8 u.val) n [f] [] (.gzInit u n f)) ∧
  (∀ (sel : BitVec 8) (n : BitVec 16) (f : Word), 15 < sel.toNat →
    decode ⟨mkCw 0x13#8 sel n, [f], []⟩ = .error .illegalField) ∧
  (∀ u : Fin 16, reads 0x15#8 (BitVec.ofNat 8 u.val) 0#16 [] [] (.gzPower u)) ∧
  (∀ (u : Fin 16) (n : BitVec 16) (f : Word) (s : State),
    let k := (2 * n.toNat * f.toNat + 100 * s.srate.toNat) / (200 * s.srate.toNat)
    let coeff : Word := BitVec.ofInt 32 (2 * sine (BitVec.ofNat 32 ((k * 2 ^ 32) / n.toNat) + 0x40000000#32))
    exec (.gzInit u n f) s =
      if n = 0#16 then .next (s.answered .fail [] [] [])
      else .next (State.answeredOk { s with gz := s.gz.set u ⟨coeff, n, 0#16, 0#64, 0#64⟩ u.isLt } [coeff] [] [])) ∧
  (∀ (u : Fin 16) (s : State),
    let g := s.gz[u]
    let p : BitVec 64 := BitVec.ofInt 64 (g.s1.toInt * g.s1.toInt + g.s2.toInt * g.s2.toInt -
      (g.coeff.toInt * g.s1.toInt) / 2 ^ 14 * g.s2.toInt)
    exec (.gzPower u) s = .next (State.answeredOk
      (if g.n.toNat ≤ g.cnt.toNat then { s with gz := s.gz.set u ⟨g.coeff, g.n, 0#16, 0#64, 0#64⟩ u.isLt } else s)
      [p.extractLsb' 0 32, p.extractLsb' 32 32] [] []))

/-- R137, R138, R148: `GZ_ACC` takes the samples that are left in the block, each by the two-tap recursion, and reports whether
the block is complete and how many samples it took. -/
def Obligations.GoertzelAccumulate : Prop :=
  (∀ (u : Fin 16) (xs : List Word), xs.length < 65536 →
    reads 0x14#8 (BitVec.ofNat 8 u.val) (BitVec.ofNat 16 xs.length) [] xs (.gzAcc u xs)) ∧
  (∀ (g : Goertzel) (x : Int), g.step x =
    ⟨g.coeff, g.n, g.cnt + 1#16, BitVec.ofInt 64 (x + (g.coeff.toInt * g.s1.toInt) / 2 ^ 14 - g.s2.toInt), g.s1⟩) ∧
  (∀ (u : Fin 16) (xs : List Word) (s : State),
    let g := s.gz[u]
    let used := min xs.length (g.n.toNat - g.cnt.toNat)
    exec (.gzAcc u xs) s = .next (State.answeredOk
      { s with gz := s.gz.set u ((xs.take used).foldl (fun h x => h.step x.toInt) g) u.isLt }
      [bitWord (decide (g.n.toNat ≤ g.cnt.toNat + used)), BitVec.ofNat 32 used] [] []))

/-- R141, R150: `IQ_BUILD` fills the first `L` entries of one table with cosine and sine of the multiples of the increment, keeps
the entries beyond, and touches nothing else; a length of 0 or above 512 is `FAIL`. -/
def Obligations.IqBuild : Prop :=
  ∀ (t : Fin 4) (len : BitVec 16) (f : Word) (s : State),
    reads 0x16#8 (BitVec.ofNat 8 t.val) len [f] [] (.iqBuild t len f) ∧
    ((len.toNat = 0 ∨ 512 < len.toNat) → exec (.iqBuild t len f) s = .next (s.answered .fail [] [] [])) ∧
    (1 ≤ len.toNat ∧ len.toNat ≤ 512 → ∃ x : IqTable,
      exec (.iqBuild t len f) s = .next (State.answeredOk { s with iq := s.iq.set t x t.isLt } [] [] []) ∧
      x.len = len ∧
      (let inc := (f.toNat * 2 ^ 32) / (100 * s.srate.toNat) % 2 ^ 32;
        ∀ n : Nat,
          ramRead x.i n = (if n < len.toNat then BitVec.ofInt 16 (sine (BitVec.ofNat 32 (n * inc) + 0x40000000#32))
            else ramRead s.iq[t].i n) ∧
          ramRead x.q n = (if n < len.toNat then BitVec.ofInt 16 (sine (BitVec.ofNat 32 (n * inc)))
            else ramRead s.iq[t].q n)))

/-- R143, R151: `CORRELATE` answers the dot product of one component of a table with the ring of the table's channel, from the
start index on, scaled down once, as two words, and changes nothing. -/
def Obligations.CorrelateResult : Prop :=
  ∀ (t : Fin 4) (q : Component) (start : Word) (s : State),
    let ref := fun i => (ramRead (match q with | .inPhase => s.iq[t].i | .quadrature => s.iq[t].q) i).toInt
    let ring := fun i => (ramRead (s.chanAt (t.val / 2)).ring i).toInt
    let v : BitVec 64 := BitVec.ofInt 64
      ((∑ i ∈ Finset.range s.iq[t].len.toNat, ref i * ring ((start.toNat % 512 + i) % 512)) / 2 ^ 14)
    let sel : BitVec 8 := match q with | .inPhase => BitVec.ofNat 8 t.val | .quadrature => BitVec.ofNat 8 (4 + t.val)
    reads 0x17#8 sel 0#16 [start] [] (.correlate t q start) ∧
    exec (.correlate t q start) s = .next (s.answeredOk [v.extractLsb' 0 32, v.extractLsb' 32 32] [] [])

/-! ### Frame codec -/

/-- R161, R162, R167, R168: `FRM_CFG` sets the order of one instance and nothing else; `FRM_LOAD` on an idle builder makes the ten
frame bits, start bit in bit 9, data bits in the order configured, stop bit in bit 0; on a busy one it is `FAIL`. -/
def Obligations.FrameConfigLoad : Prop :=
  ∀ (k : Fin 3) (s : State),
    reads 0x20#8 (BitVec.ofNat 8 k.val) 0#16 [] [] (.frmCfg k .lsbFirst) ∧
    reads 0x20#8 (BitVec.ofNat 8 k.val) 1#16 [] [] (.frmCfg k .msbFirst) ∧
    (∀ b : Byte, reads 0x21#8 (BitVec.ofNat 8 k.val) (b.setWidth 16) [] [] (.frmLoad k b)) ∧
    (∀ o : BitOrder, exec (.frmCfg k o) s =
      .next (State.answeredOk { s with codec := s.codec.set k { s.codec[k] with order := o } k.isLt } [] [] [])) ∧
    (∀ b : Byte, s.codec[k].bn ≠ 0#4 → exec (.frmLoad k b) s = .next (s.answered .fail [] [] [])) ∧
    (∀ b : Byte, s.codec[k].bn = 0#4 → ∃ v : BitVec 10,
      exec (.frmLoad k b) s = .next (State.answeredOk
        { s with codec := s.codec.set k { s.codec[k] with bframe := v, bn := 10#4 } k.isLt } [] [] []) ∧
      v.getLsbD 9 = false ∧ v.getLsbD 0 = true ∧
      ∀ i : Fin 8, v.getLsbD (8 - i.val) =
        match s.codec[k].order with
        | .lsbFirst => b.getLsbD i.val
        | .msbFirst => b.getLsbD (7 - i.val))

/-- R163, R164, R165, R166, R169, R170, R171: the next bit out, the next bit in for every state of the parser, and the codec's
reset, which keeps the order. -/
def Obligations.FramePopPushReset : Prop :=
  ∀ (k : Fin 3) (s : State),
    let c := s.codec[k]
    let put := fun (c' : Codec) (r : List Word) =>
      (Host.Outcome.next (State.answeredOk { s with codec := s.codec.set k c' k.isLt } r [] []) : Result)
    let sel : BitVec 8 := BitVec.ofNat 8 k.val
    reads 0x22#8 sel 0#16 [] [] (.frmPop k) ∧ reads 0x23#8 sel 0#16 [] [] (.frmPush k false) ∧
    reads 0x23#8 sel 1#16 [] [] (.frmPush k true) ∧ reads 0x24#8 sel 0#16 [] [] (.frmReset k) ∧
    (c.bn = 0#4 → exec (.frmPop k) s = .next (s.answeredOk [1#32] [] [])) ∧
    (c.bn ≠ 0#4 →
      exec (.frmPop k) s = put { c with bn := c.bn - 1#4 } [bitWord (c.bframe.getLsbD (c.bn.toNat - 1))]) ∧
    (c.pst = .idle → exec (.frmPush k true) s = .next (s.answeredOk [0#32, 0#32] [] [])) ∧
    (c.pst = .idle → exec (.frmPush k false) s = put { c with pst := .data, pk := 0#3, pacc := 0#8 } [0#32, 0#32]) ∧
    (∀ b : Bool, c.pst = .data →
      let pos := match c.order with | .lsbFirst => c.pk.toNat | .msbFirst => 7 - c.pk.toNat
      let acc := if b then c.pacc ||| (1#8 <<< pos) else c.pacc
      exec (.frmPush k b) s =
        if c.pk = 7#3 then put { c with pacc := acc, pst := .stop } [0#32, 0#32]
        else put { c with pacc := acc, pk := c.pk + 1#3 } [0#32, 0#32]) ∧
    (c.pst = .stop → exec (.frmPush k true) s = put { c with pst := .idle } [1#32, c.pacc.setWidth 32]) ∧
    (c.pst = .stop → exec (.frmPush k false) s = put { c with pst := .idle } [0#32, 0#32]) ∧
    exec (.frmReset k) s = put ⟨c.order, 0x3FF#10, 0#4, .idle, 0#3, 0#8⟩ []

/-- R172: a byte loaded into an idle builder and taken out bit by bit into an idle parser comes back once, on the tenth bit: as
itself when the two orders agree, reversed when they differ; idle 1 bits before it change nothing. -/
def Obligations.FrameRoundTrip : Prop :=
  (∀ (k j : Fin 3) (b : Byte) (s : State), s.codec[k].bn = 0#4 → s.codec[j].pst = .idle →
    ∃ t0 t rs, exec (.frmLoad k b) s = .next t0 ∧ relayBits (.frmPop k) (.frmPush j) 10 t0 = some (t, rs) ∧
      rs.map Response.results = List.replicate 9 [0#32, 0#32] ++
        [[1#32, (if s.codec[k].order = s.codec[j].order then b else b.reverse).setWidth 32]] ∧
      t.codec[k].bn = 0#4 ∧ t.codec[j].pst = .idle) ∧
  (∀ (j : Fin 3) (s : State), s.codec[j].pst = .idle →
    exec (.frmPush j true) s = .next (s.answeredOk [0#32, 0#32] [] []))

/-! ### Tone engine -/

/-- R181, R190: `TONE_START` of a valid tone with a budget that is not empty loads every tone register from the descriptor and
changes nothing else. -/
def Obligations.ToneStartRegisters : Prop :=
  ∀ (id : Byte) (so : BitVec 16) (total gain : Word) (s : State),
    let d := toneDesc id.toNat
    let inc := fun f : Nat => (BitVec.ofNat 32 ((f * 2 ^ 32) / (100 * s.srate.toNat)) : Word)
    let samples := fun ms : Nat => (BitVec.ofNat 32 ((ms * s.srate.toNat) / 1000) : Word)
    let finite : Bool := if total = 0#32 then decide (d.playMs ≠ 0) else decide (total ≠ 0xFFFFFFFF#32)
    let left : Word := if finite = false then 0#32 else if total = 0#32 then samples d.playMs else total
    failCause (.toneStart id so total gain) s = false → (finite = false ∨ left ≠ 0#32) →
    exec (.toneStart id so total gain) s = .next (State.answeredOk
      { s with tone :=
        { active := true, id := id, inc1 := inc d.f1, inc2 := if d.f2 = 0 then 0#32 else inc d.f2,
          has2 := decide (d.f2 ≠ 0), ph1 := 0#32, ph2 := 0#32, amInc := if d.amRate = 0 then 0#32 else inc d.amRate,
          amPh := 0#32, amMid := BitVec.ofNat 16 ((d.amLo + d.amHi) / 2),
          amHalf := BitVec.ofInt 16 (((d.amHi : Int) - (d.amLo : Int)) / 2), revInt := samples d.revMs,
          revLeft := samples d.revMs, finite := finite, left := left,
          succ := if so = 0xFFFF#16 then d.succ else so.setWidth 8, gain := gain } } [] [] [])

/-- R183, R185, R191, R276: `TONE_START_F` loads every tone register; with `total = 0` the tone of no samples is done at once;
outside phase `TX_ANS` that is all, in it the engine makes V21 ready and goes to `SENT_ANSAM` as after its answer tone. -/
def Obligations.ToneStartFRegisters : Prop :=
  ∀ (f1 f2 total gain : Word) (s : State),
    let inc := fun f : Word => (BitVec.ofNat 32 ((f.toNat * 2 ^ 32) / (100 * s.srate.toNat)) : Word)
    let indefinite : Bool := decide (total = 0xFFFFFFFF#32)
    let tone : ToneTx :=
      { active := true, id := 0#8, inc1 := inc f1, inc2 := if f2 = 0#32 then 0#32 else inc f2, has2 := decide (f2 ≠ 0#32),
        ph1 := 0#32, ph2 := 0#32, amInc := 0#32, amPh := 0#32, amMid := 0#16, amHalf := 0#16, revInt := 0#32,
        revLeft := 0#32, finite := !indefinite, left := if indefinite then 0#32 else total, succ := 0#8, gain := gain }
    (total ≠ 0#32 →
      exec (.toneStartF f1 f2 total gain) s = .next (State.answeredOk { s with tone := tone } [] [] [])) ∧
    (total = 0#32 → s.v8.phase ≠ .txAns →
      exec (.toneStartF f1 f2 total gain) s =
        .next (State.answeredOk { s with tone := { tone with active := false } } [] [] [.toneDone 0#8])) ∧
    (total = 0#32 → s.v8.phase = .txAns → schemeUsable s.srate 1 = true → ∃ (d : State) (out : Ram 8),
      exec (.fskSelect 1#8) s = .next d ∧ storedFrom s.v8.out out (menuOctets (txItems s)) ∧
      exec (.toneStartF f1 f2 total gain) s = .next (State.answeredOk
        (s.answerToneDone d { tone with active := false } out) [] [] [.toneDone 0#8, .v8State .txAns .sentAnsam]))

/-- R186: a finite tone of `n` samples with no successor produces exactly `n` samples; its completion event comes in the
operation that produces the last of them, and the rest of the block is zeros. -/
def Obligations.ToneFiniteLength : Prop :=
  ∀ (count : BitVec 16) (s : State), s.tone.active = true → s.tone.finite = true → s.tone.left ≠ 0#32 → s.tone.succ = 0#8 →
    s.v8.phase ≠ .txAns →
    ∃ (tone : ToneTx) (ys : List Word), ys.length = count.toNat ∧
      (count.toNat < s.tone.left.toNat →
        exec (.toneTx count) s = .next (State.answeredOk { s with tone := tone } [] ys []) ∧ tone.active = true ∧
        tone.finite = true ∧ tone.left.toNat = s.tone.left.toNat - count.toNat) ∧
      (s.tone.left.toNat ≤ count.toNat →
        exec (.toneTx count) s = .next (State.answeredOk { s with tone := tone } [] ys [.toneDone s.tone.id]) ∧
        tone.active = false ∧ tone.id = s.tone.id ∧
        ys.drop s.tone.left.toNat = List.replicate (count.toNat - s.tone.left.toNat) 0#32)

/-- R189, R184, R192, R193: an indefinite tone never completes, its budget registers stay; with no tone active the output is
zeros and nothing changes; `TONE_STOP` puts every tone register to 0 and emits nothing. -/
def Obligations.ToneIndefiniteStop : Prop :=
  (∀ count : BitVec 16, reads 0x32#8 0#8 count [] [] (.toneTx count)) ∧ reads 0x33#8 0#8 0#16 [] [] .toneStop ∧
  (∀ (count : BitVec 16) (s : State), s.tone.active = true → s.tone.finite = false →
    ∃ (tone : ToneTx) (ys : List Word), ys.length = count.toNat ∧
      exec (.toneTx count) s = .next (State.answeredOk { s with tone := tone } [] ys []) ∧
      tone.active = true ∧ tone.finite = false ∧ tone.left = s.tone.left) ∧
  (∀ (count : BitVec 16) (s : State), s.tone.active = false →
    exec (.toneTx count) s = .next (s.answeredOk [] (List.replicate count.toNat 0#32) [])) ∧
  (∀ s : State, exec .toneStop s = .next (State.answeredOk
    { s with tone :=
      ⟨false, 0#8, 0#32, 0#32, false, 0#32, 0#32, 0#32, 0#32, 0#16, 0#16, 0#32, 0#32, false, 0#32, 0#8, 0#32⟩ } [] [] []))

/-- R185, R187, R214: one sample of an active tone: the sum of the carriers' sines, times the envelope where the tone is
modulated, times the gain, from the phases before they advance; the reversal counter, which flips both carriers by half the
domain when it runs out; the budget. The sample that exhausts the budget starts the successor as `TONE_START` does with its own
duration and successor and the same gain, or ends the tone. For an indefinite tone without modulation and reversal, sample `j`
of a block is computed at the phases after `j` increments. -/
def Obligations.TonePlainSamples : Prop :=
  (∀ s : State, s.tone.active = true →
    let t := s.tone
    let v : Int := sine t.ph1 + (if t.has2 then sine t.ph2 else 0)
    let env : Int := (t.amMid.toNat : Int) + ((t.amHalf.toNat : Int) * sine t.amPh) / 2 ^ 14
    let w : Int := if t.amInc = 0#32 then v else (v * env) / 2 ^ 14
    let y : Word := BitVec.ofInt 32 ((w * (t.gain.toNat : Int)) / 2 ^ 14)
    let jump : Word := if t.revInt ≠ 0#32 ∧ t.revLeft = 1#32 then 0x80000000#32 else 0#32
    let t' : ToneTx :=
      { t with
        ph1 := t.ph1 + t.inc1 + jump, ph2 := t.ph2 + t.inc2 + jump, amPh := t.amPh + t.amInc,
        revLeft := if t.revInt = 0#32 then t.revLeft else if t.revLeft = 1#32 then t.revInt else t.revLeft - 1#32,
        left := if t.finite then t.left - 1#32 else t.left }
    ((t.finite = false ∨ t.left ≠ 1#32) →
      exec (.toneTx 1#16) s = .next (State.answeredOk { s with tone := t' } [] [y] [])) ∧
    (t.finite = true → t.left = 1#32 → t.succ = 0#8 → s.v8.phase ≠ .txAns →
      exec (.toneTx 1#16) s =
        .next (State.answeredOk { s with tone := { t' with active := false } } [] [y] [.toneDone t.id])) ∧
    (t.finite = true → t.left = 1#32 → t.succ = 0#8 → s.v8.phase = .txAns → schemeUsable s.srate 1 = true →
      ∃ (d : State) (out : Ram 8), exec (.fskSelect 1#8) s = .next d ∧
        storedFrom s.v8.out out (menuOctets (txItems s)) ∧
        exec (.toneTx 1#16) s = .next (State.answeredOk (s.answerToneDone d { t' with active := false } out) [] [y]
          [.toneDone t.id, .v8State .txAns .sentAnsam])) ∧
    (t.finite = true → t.left = 1#32 → t.succ ≠ 0#8 → toneValid t.succ.toNat = true →
      ∃ u : State, exec (.toneStart t.succ 0xFFFF#16 0#32 t.gain) s = .next u ∧
        exec (.toneTx 1#16) s = .next (u.answeredOk [] [y] u.resp.events))) ∧
  (∀ (count : BitVec 16) (s : State), s.tone.active = true → s.tone.finite = false → s.tone.amInc = 0#32 →
    s.tone.revInt = 0#32 →
    let t := s.tone
    let ph1 := fun j : Nat => t.ph1 + (BitVec.ofNat 32 j : Word) * t.inc1
    let ph2 := fun j : Nat => t.ph2 + (BitVec.ofNat 32 j : Word) * t.inc2
    exec (.toneTx count) s = .next (State.answeredOk
      { s with tone := { t with ph1 := ph1 count.toNat, ph2 := ph2 count.toNat } } []
      ((List.range count.toNat).map (fun j => (BitVec.ofInt 32
        ((sine (ph1 j) + (if t.has2 then sine (ph2 j) else 0)) * (t.gain.toNat : Int) / 2 ^ 14) : Word))) []))

/-- R200, R208, R201, R211: `DET_CFG` of candidates with no cause of `FAIL` sets the candidate list, the distinct first
and second frequencies in order of first appearance, one Goertzel unit for each of them, and starts from an empty block;
`DET_RESET` empties the block and clears the owned units. Units outside the owned ranges are not touched. -/
def Obligations.DetectorConfigReset : Prop :=
  (∀ (ids : List Word) (s : State), failCause (.detCfg ids) s = false →
    let fa := subsetA (ids.map BitVec.toNat)
    let fb := subsetB (ids.map BitVec.toNat)
    let unit := fun f : Nat =>
      (⟨BitVec.ofInt 32 (goertzelCoeff f s.srate.toNat 256), 256#16, 0#16, 0#64, 0#64⟩ : Goertzel)
    fa.Nodup ∧ (∀ f, f ∈ fa ↔ ∃ a ∈ ids, (toneDesc a.toNat).f1 = f) ∧
    fb.Nodup ∧ (∀ f, f ∈ fb ↔ f ≠ 0 ∧ ∃ a ∈ ids, (toneDesc a.toNat).f2 = f) ∧
    ∃ (det : Detector) (gz : Vector Goertzel 16),
      exec (.detCfg ids) s = .next (State.answeredOk { s with det := det, gz := gz } [] [] []) ∧
      det.n.toNat = ids.length ∧ det.na.toNat = fa.length ∧ det.nb.toNat = fb.length ∧
      det.fill = 0#16 ∧ det.cand = 0#8 ∧ det.hits = 0#32 ∧
      (∀ i : Fin 16, det.candId[i] = (ids.getD i.val 0#32).setWidth 8) ∧
      (∀ j : Fin 8, det.fa[j] = BitVec.ofNat 32 (fa.getD j.val 0) ∧ det.fb[j] = BitVec.ofNat 32 (fb.getD j.val 0)) ∧
      (∀ u : Fin 16, gz[u] =
        if u.val < fa.length then unit (fa.getD u.val 0)
        else if 8 ≤ u.val ∧ u.val - 8 < fb.length then unit (fb.getD (u.val - 8) 0)
        else s.gz[u])) ∧
  reads 0x37#8 0#8 0#16 [] [] .detReset ∧
  (∀ s : State, ∃ gz : Vector Goertzel 16,
    exec .detReset s = .next (State.answeredOk
      { s with det := { s.det with fill := 0#16, cand := 0#8, hits := 0#32 }, gz := gz } [] [] []) ∧
    ∀ u : Fin 16, gz[u] =
      if u.val < s.det.na.toNat ∨ (8 ≤ u.val ∧ u.val - 8 < s.det.nb.toNat) then
        { s.gz[u] with cnt := 0#16, s1 := 0#64, s2 := 0#64 }
      else s.gz[u])

/-- R203, R204, R205, R206, R207: `DET_SINGLE` and `DET_DUAL` discard every sample while no candidates are configured; inside a
block they take every sample, answer `IN_PROGRESS` with the candidate of the last block and step exactly the units of the
variant; they never go past the end of a block, where the powers of the fed units select the winner, the class, the id, `DET_CAND`
and `DET_HITS` follow from it, the owned units and the fill count start anew, and the configuration is kept. -/
def Obligations.DetectorSamples : Prop :=
  ∀ (dual : Bool) (xs : List Word) (s : State), xs.length < 65536 →
    let op : Instr := if dual then .detDual xs else .detSingle xs
    let fed := fun u : Nat => u < s.det.na.toNat ∨ (dual = true ∧ 8 ≤ u ∧ u - 8 < s.det.nb.toNat)
    let owned := fun u : Nat => u < s.det.na.toNat ∨ (8 ≤ u ∧ u - 8 < s.det.nb.toNat)
    (s.det.n = 0#5 → exec op s = .next (s.answeredOk [0#32, 0#32, BitVec.ofNat 32 xs.length] [] [])) ∧
    (s.det.n ≠ 0#5 → s.det.na.toNat ≤ 8 → s.det.nb.toNat ≤ 8 → s.det.fill.toNat + xs.length < 256 →
      ∃ gz : Vector Goertzel 16,
        exec op s = .next (State.answeredOk
          { s with gz := gz, det := { s.det with fill := s.det.fill + BitVec.ofNat 16 xs.length } }
          [1#32, s.det.cand.setWidth 32, BitVec.ofNat 32 xs.length] [] []) ∧
        (∀ u : Fin 16, fed u.val → gz[u] = xs.foldl (fun g x => g.step x.toInt) s.gz[u]) ∧
        (∀ u : Fin 16, ¬ fed u.val → gz[u] = s.gz[u])) ∧
    (s.det.n ≠ 0#5 → s.det.n.toNat ≤ 16 → s.det.na.toNat ≤ 8 → s.det.nb.toNat ≤ 8 → s.det.fill.toNat < 256 →
      256 ≤ s.det.fill.toNat + xs.length →
      let taken := xs.take (256 - s.det.fill.toNat)
      let power := fun u : Nat => (taken.foldl (fun g x => g.step x.toInt) (s.gzAt u)).value
      ∃ (gz : Vector Goertzel 16) (c : Byte), blockWinner dual s.det power c ∧
        (let r := blockClass s.srate s.det c;
          exec op s = .next (State.answeredOk
            { s with gz := gz, det := { s.det with fill := 0#16, cand := r.2.2.1, hits := r.2.2.2 } }
            [classCode r.1, r.2.1.setWidth 32, BitVec.ofNat 32 (256 - s.det.fill.toNat)] [] [])) ∧
        (∀ u : Fin 16, owned u.val → gz[u] = { s.gz[u] with cnt := 0#16, s1 := 0#64, s2 := 0#64 }) ∧
        (∀ u : Fin 16, ¬ owned u.val → gz[u] = s.gz[u]))

/-- R206: over an unbroken run of blocks won by one tone without a maximum duration, the class is `IN_PROGRESS` until the
debounce time is reached, `NEW` for exactly the block that reaches it, and `CONTINUING` from then on. -/
def Obligations.UnbrokenToneNewOnce : Prop :=
  ∀ (c : Byte) (used n : Nat) (s : State), c ≠ 0#8 → s.det.cand ≠ c → (toneDesc c.toNat).playMs = 0 → n + 1 < 2 ^ 32 →
    let deb := (BitVec.ofNat 32 (((toneDesc c.toNat).debMs * s.srate.toNat) / 1000) : Word).toNat
    (classify c used ((fun t => (classify c used t).1)^[n] s)).2 =
      ⟨if (n + 1) * 256 < deb then ToneClass.inProgress else if n * 256 < deb then ToneClass.new else ToneClass.continuing,
        c, used⟩

/-! ### FSK engine and data path -/

/-- R221, R223, R224, R225: `FSK_SELECT` of a usable scheme loads both channels' registers and tables from the descriptor,
empties the queue and the `LINE` codec and keeps `FSK_TXEN`; `FSK_SELECT 0` leaves no scheme. -/
def Obligations.FskSelectResult : Prop :=
  ∀ (id : Byte) (s : State), (id = 0#8 ∨ schemeUsable s.srate id.toNat = true) →
    let d := schemeDesc (if id = 0#8 then 0 else id.toNat)
    let inc := fun f : Nat => (BitVec.ofNat 32 ((f * 2 ^ 32) / (100 * s.srate.toNat)) : Word)
    let len := fun c : Nat => if c < d.nch then (100 * s.srate.toNat) / (d.chan c).baud else 0
    ∃ (iq : Vector IqTable 4) (chan : Vector FskChannel 2),
      exec (.fskSelect id) s = .next (State.answeredOk
        { s with
          fsk := { scheme := id, nch := BitVec.ofNat 2 d.nch, txch := d.defTx, rxch := d.defRx, txen := s.fsk.txen },
          iq := iq, chan := chan,
          codec := s.codec.set 0 ⟨s.codec[(0 : Fin 3)].order, 0x3FF#10, 0#4, .idle, 0#3, 0#8⟩ (Nat.succ_pos 2),
          txq := { s.txq with head := 0#6, count := 0#7 } } [] [] []) ∧
      (∀ c : Fin 2, chan[c] =
        { inc0 := if c.val < d.nch then inc (d.chan c.val).f0 else 0#32,
          inc1 := if c.val < d.nch then inc (d.chan c.val).f1 else 0#32,
          binc := if c.val < d.nch then inc (d.chan c.val).baud else 0#32,
          symlen := BitVec.ofNat 16 (len c.val), shift := BitVec.ofNat 4 (Nat.log2 (len c.val)),
          modPh := 0#32, modClk := 0#32, modBit := true, demClk := 0#32, demEst := true, demWidx := 0#9, ring := [] }) ∧
      (∀ (c v : Fin 2) (t : Fin 4), t.val = 2 * c.val + v.val →
        iq[t].len.toNat = len c.val ∧
        (let f := if v.val = 0 then (d.chan c.val).f0 else (d.chan c.val).f1;
          ∀ n : Nat,
            ramRead iq[t].i n = (if n < len c.val then BitVec.ofInt 16 (cosine (BitVec.ofNat 32 (n * (inc f).toNat)))
              else ramRead s.iq[t].i n) ∧
            ramRead iq[t].q n = (if n < len c.val then BitVec.ofInt 16 (sine (BitVec.ofNat 32 (n * (inc f).toNat)))
              else ramRead s.iq[t].q n)))

/-- R226, R227, R228: a channel the scheme has is selected for one direction, any other is `FAIL`; the enable bit is written; nothing
else changes. -/
def Obligations.FskChannelOps : Prop :=
  ∀ s : State,
    (∀ c : Fin 2, reads 0x41#8 (BitVec.ofNat 8 c.val) 0#16 [] [] (.fskTxch c) ∧
      reads 0x42#8 (BitVec.ofNat 8 c.val) 0#16 [] [] (.fskRxch c)) ∧
    reads 0x43#8 0#8 0#16 [] [] (.fskTxen false) ∧ reads 0x43#8 0#8 1#16 [] [] (.fskTxen true) ∧
    (∀ c : Fin 2, exec (.fskTxch c) s =
      if s.fsk.nch.toNat ≤ c.val then .next (s.answered .fail [] [] [])
      else .next (State.answeredOk { s with fsk := { s.fsk with txch := BitVec.ofNat 1 c.val } } [] [] [])) ∧
    (∀ c : Fin 2, exec (.fskRxch c) s =
      if s.fsk.nch.toNat ≤ c.val then .next (s.answered .fail [] [] [])
      else .next (State.answeredOk { s with fsk := { s.fsk with rxch := BitVec.ofNat 1 c.val } } [] [] [])) ∧
    (∀ e : Bool, exec (.fskTxen e) s =
      .next (State.answeredOk { s with fsk := { s.fsk with txen := e } } [] [] []))

/-- R230, R231: with no scheme or with transmission off `FSK_TX` gives zeros and changes nothing; otherwise a sample is the sine of the
carrier phase, the phase and the symbol clock of the transmit channel advance, and while the clock does not wrap nothing else
changes; when it wraps the next bit comes from the data path, and on an idle line with an empty queue it is 1. -/
def Obligations.FskTransmitSample : Prop :=
  (∀ (count : BitVec 16) (s : State), (s.fsk.scheme = 0#8 ∨ s.fsk.txen = false) →
    exec (.fskTx count) s = .next (s.answeredOk [] (List.replicate count.toNat 0#32) [])) ∧
  (∀ (c : Fin 2) (s : State), s.fsk.scheme ≠ 0#8 → s.fsk.txen = true → s.fsk.txch.toNat = c.val →
    let x := s.chan[c]
    let ph := x.modPh + (if x.modBit then x.inc1 else x.inc0)
    let y : Word := BitVec.ofInt 32 (sine x.modPh)
    (x.modClk.toNat + x.binc.toNat < 2 ^ 32 →
      exec (.fskTx 1#16) s = .next (State.answeredOk
        { s with chan := s.chan.set c { x with modPh := ph, modClk := x.modClk + x.binc } c.isLt } [] [y] [])) ∧
    (2 ^ 32 ≤ x.modClk.toNat + x.binc.toNat → ∃ u : State, exec .dataPopTxBit s = .next u ∧
      exec (.fskTx 1#16) s = .next (State.answeredOk
        { u with
          chan := s.chan.set c
            { x with modPh := ph, modClk := x.modClk + x.binc, modBit := decide (u.resp.results = [1#32]) } c.isLt }
        [] [y] [])) ∧
    (2 ^ 32 ≤ x.modClk.toNat + x.binc.toNat → s.codec[(0 : Fin 3)].bn = 0#4 → s.txq.count = 0#7 →
      exec (.fskTx 1#16) s = .next (State.answeredOk
        { s with chan := s.chan.set c { x with modPh := ph, modClk := x.modClk + x.binc, modBit := true } c.isLt }
        [] [y] [])))

/-- R233, R234, R235, R236: with no scheme `FSK_RX` changes nothing; otherwise a sample goes, shifted, into one word of the receive channel's ring,
no other memory word and no register outside that channel's receiver, the `LINE` parser and the response changes; the
estimate is the bit with the larger confidence over the window, the symbol clock is realigned where the estimate changes and
advanced, and the tick that ends a symbol gives the estimate to the data path; a window of zeros holds the estimate. -/
def Obligations.FskReceiveSample : Prop :=
  (∀ (xs : List Word) (s : State), s.fsk.scheme = 0#8 → exec (.fskRx xs) s = .next (s.answeredOk [] [] [])) ∧
  (∀ (x : Word) (c : Fin 2) (s : State), s.fsk.scheme ≠ 0#8 → s.fsk.rxch.toNat = c.val →
    let r := s.chan[c]
    let stored : Word := BitVec.ofInt 32 (x.toInt / 2 ^ r.shift.toNat)
    (∃ (ring : Ram 32) (clk : Word) (est : Bool) (line : Codec) (events : List Event),
      exec (.fskRx [x]) s = .next (State.answeredOk
        { s with
          chan := s.chan.set c { r with ring := ring, demWidx := r.demWidx + 1#9, demClk := clk, demEst := est } c.isLt,
          codec := s.codec.set 0 line (Nat.succ_pos 2) } [] [] events) ∧
      (∀ a : Nat, ramRead ring a = if a = r.demWidx.toNat then stored else ramRead r.ring a)) ∧
    (stored = 0#32 → (∀ a, ramRead r.ring a = 0#32) → r.demClk.toNat + r.binc.toNat < 2 ^ 32 →
      exec (.fskRx [x]) s = .next (State.answeredOk
        { s with
          chan := s.chan.set c
            { r with
              ring := ramWrite r.ring r.demWidx.toNat 0#32, demWidx := r.demWidx + 1#9, demClk := r.demClk + r.binc }
            c.isLt } [] [] [])) ∧
    (let s1 : State := { s with chan := s.chan.set c (r.store x) c.isLt };
      let est := estimateBit s1 c.val
      let k := (r.store x).tick est
      let s2 : State := { s with chan := s.chan.set c k.1 c.isLt }
      let start := ((r.demWidx + 1#9) - BitVec.ofNat 9 r.symlen.toNat).toNat
      let corr := fun ref : Nat → Int => (BitVec.ofInt 64
        ((∑ i ∈ Finset.range r.symlen.toNat, ref i * (ramRead s1.chan[c].ring ((start + i) % 512)).toInt) / 2 ^ 14)).toInt
      let conf := fun v : Nat =>
        let i := corr (fun n => (ramRead (s.iqAt (2 * c.val + v)).i n).toInt)
        let q := corr (fun n => (ramRead (s.iqAt (2 * c.val + v)).q n).toInt)
        (BitVec.ofInt 64 (i * i + q * q)).toInt
      let clk : Word :=
        if est = r.demEst ∨ r.demClk = 0x80000000#32 then r.demClk
        else if r.demClk.toNat < 2 ^ 31 then r.demClk + 0x10000000#32
        else r.demClk - 0x10000000#32
      est = (if 0 < conf 0 ∧ 0 < conf 1 ∧ conf 0 ≠ conf 1 then decide (conf 0 < conf 1) else r.demEst) ∧
      k.1.demEst = est ∧ k.1.demClk = clk + r.binc ∧ k.2 = decide (2 ^ 32 ≤ clk.toNat + r.binc.toNat) ∧
      (k.2 = false → exec (.fskRx [x]) s = .next (s2.answeredOk [] [] [])) ∧
      (k.2 = true → ∃ u : State, exec (.dataPushRxBit est) s2 = .next u ∧
        exec (.fskRx [x]) s = .next (u.answeredOk [] [] u.resp.events))))

/-- R81, R241: `TX_BYTE` puts the byte behind the newest one, changes no other word of the queue and nothing else, and is `FAIL` on a
full queue. -/
def Obligations.TxByteResult : Prop :=
  ∀ (b : Byte) (s : State),
    (s.txq.count.toNat = 64 → exec (.txByte b) s = .next (s.answered .fail [] [] [])) ∧
    (s.txq.count.toNat ≠ 64 → ∃ mem : Ram 8,
      exec (.txByte b) s = .next (State.answeredOk
        { s with txq := { mem := mem, head := s.txq.head, count := s.txq.count + 1#7 } } [] [] []) ∧
      ∀ a : Nat, ramRead mem a = if a = (s.txq.head.toNat + s.txq.count.toNat) % 64 then b else ramRead s.txq.mem a)

/-- R243, R244, R245, R246: the data path's bit source sends the frame in progress, else the oldest byte of the queue, else mark; its bit
sink reports a byte when the bit completes a well-formed frame and otherwise only steps the `LINE` parser. -/
def Obligations.DataBits : Prop :=
  ∀ s : State,
    let line := s.codec[(0 : Fin 3)]
    reads 0x47#8 0#8 0#16 [] [] .dataPopTxBit ∧ reads 0x48#8 0#8 0#16 [] [] (.dataPushRxBit false) ∧
    reads 0x48#8 0#8 1#16 [] [] (.dataPushRxBit true) ∧
    (line.bn ≠ 0#4 → exec .dataPopTxBit s = exec (.frmPop 0) s) ∧
    (line.bn = 0#4 → s.txq.count = 0#7 → exec .dataPopTxBit s = .next (s.answeredOk [1#32] [] [])) ∧
    (line.bn = 0#4 → s.txq.count ≠ 0#7 → ∃ bframe : BitVec 10,
      exec .dataPopTxBit s = .next (State.answeredOk
        { s with
          codec := s.codec.set 0 { line with bframe := bframe, bn := 9#4 } (Nat.succ_pos 2),
          txq := { s.txq with head := s.txq.head + 1#6, count := s.txq.count - 1#7 } } [0#32] [] []) ∧
      ∀ i : Fin 8, bframe.getLsbD (8 - i.val) =
        match line.order with
        | .lsbFirst => (ramRead s.txq.mem s.txq.head.toNat).getLsbD i.val
        | .msbFirst => (ramRead s.txq.mem s.txq.head.toNat).getLsbD (7 - i.val)) ∧
    (∀ b : Bool, ∃ t : State, exec (.frmPush 0 b) s = .next t ∧
      exec (.dataPushRxBit b) s = .next (t.answeredOk [] []
        (if line.pst = .stop ∧ b = true then [.rxByte line.pacc] else [])))

/-- R81, R172, R243, R244: bytes given to `TX_BYTE` on an idle line with an empty queue come out of the bit sink as exactly those bytes,
in order, when every bit of the source is given to it, whatever the bit order; afterwards the line and the queue are idle. -/
def Obligations.DataPathRoundTrip : Prop :=
  ∀ (bs : List Byte) (s : State), bs.length ≤ 64 → s.txq.count = 0#7 → s.codec[(0 : Fin 3)].bn = 0#4 →
    s.codec[(0 : Fin 3)].pst = .idle →
    ∃ t0 rs0 t rs, runAll (bs.map Instr.txByte) s = some (t0, rs0) ∧
      relayBits .dataPopTxBit .dataPushRxBit (10 * bs.length) t0 = some (t, rs) ∧
      rs.flatMap Response.events = bs.map Event.rxByte ∧
      t.txq.count = 0#7 ∧ t.codec[(0 : Fin 3)].bn = 0#4 ∧ t.codec[(0 : Fin 3)].pst = .idle

/-! ### V.8 engine -/

/-- R263, R264, R265, R266: `V8_START` clears the session, keeps the transmit set and every buffer, sets role and phase with one event
when the phase changes, and starts the answer tone as `TONE_START` does (role `SEND`, a tone that is not empty) or configures
the classifier as `DET_CFG` of `ANS` and `CT` does (role `LISTEN`); `V8_STOP` sets the phase and nothing else. -/
def Obligations.V8StartStop : Prop :=
  ∀ s : State,
    let started := fun (role : Role) (phase : Phase) => ({ s.v8 with
      phase := phase, role := role, nrx := 0#5, rxlen := 0#5, ck := 0#32, ckv := false, outlen := 0#5, cursor := 0#16,
      sync := 0x3FF#10, zrun := 0#2 } : V8Regs)
    let codec := s.codec.set 2 ⟨s.codec[(2 : Fin 3)].order, 0x3FF#10, 0#4, .idle, 0#3, 0#8⟩ (Nat.lt_succ_self 2)
    let change := fun (phase : Phase) => if s.v8.phase = phase then [] else [Event.v8State s.v8.phase phase]
    (∀ tone : BitVec 16, failCause (.v8Start .send tone) s = false →
      (toneDesc tone.toNat).playMs = 0 ∨ msToSamples s.srate (toneDesc tone.toNat).playMs ≠ 0#32 →
      ∃ u : State, exec (.toneStart (tone.setWidth 8) 0xFFFF#16 0#32 16384#32) s = .next u ∧ u.tone.active = true ∧
        exec (.v8Start .send tone) s = .next (State.answeredOk
          { s with v8 := started .send .txAns, codec := codec, tone := u.tone } [] [] (change .txAns))) ∧
    (failCause (.v8Start .listen 0#16) s = false →
      ∃ u : State, exec (.detCfg [0x13#32, 0x17#32]) s = .next u ∧ u.resp.status = some .ok ∧
        exec (.v8Start .listen 0#16) s = .next (State.answeredOk
          { s with v8 := started .listen .rxAns, codec := codec, det := u.det, gz := u.gz } [] [] (change .rxAns))) ∧
    exec .v8Stop s = .next (State.answeredOk { s with v8 := { s.v8 with phase := .stopped } } [] [] (change .stopped))

/-- R268, R269, R274, R275: `V8_ADD_CAP` appends an item that is valid, new and fits, changing one word of the set's memory and its
count, and is `FAIL` for every other; the two read operations answer the count and the items in insertion order and change nothing. -/
def Obligations.CapabilityOps : Prop :=
  ∀ s : State,
    (∀ item : Byte, reads 0x52#8 0#8 (item.setWidth 16) [] [] (.v8AddCap item)) ∧
    reads 0x53#8 0#8 0#16 [] [] .v8GetTxcaps ∧ reads 0x54#8 0#8 0#16 [] [] .v8GetRxcaps ∧
    (∀ item : Byte,
      itemValid item = false ∨ (∃ j : Nat, j < s.v8.ntx.toNat ∧ ramRead s.v8.txcaps j = item) ∨ s.v8.ntx = 16#5 →
      exec (.v8AddCap item) s = .next (s.answered .fail [] [] [])) ∧
    (∀ item : Byte, itemValid item = true → (∀ j : Nat, j < s.v8.ntx.toNat → ramRead s.v8.txcaps j ≠ item) →
      s.v8.ntx ≠ 16#5 → ∃ mem : Ram 8,
        exec (.v8AddCap item) s = .next (State.answeredOk
          { s with v8 := { s.v8 with txcaps := mem, ntx := s.v8.ntx + 1#5 } } [] [] []) ∧
        ∀ a : Nat, ramRead mem a = if a = s.v8.ntx.toNat then item else ramRead s.v8.txcaps a) ∧
    exec .v8GetTxcaps s = .next (s.answeredOk
      (s.v8.ntx.setWidth 32 :: (List.range s.v8.ntx.toNat).map (fun j => (ramRead s.v8.txcaps j).setWidth 32)) [] []) ∧
    exec .v8GetRxcaps s = .next (s.answeredOk
      (s.v8.nrx.setWidth 32 :: (List.range s.v8.nrx.toNat).map (fun j => (ramRead s.v8.rxcaps j).setWidth 32)) [] [])

/-- R113, R277, R278, R290: the outgoing bits of one whole menu, taken from the start of the sequence in `SENT_CM` or `SENT_JM`, are ten
ones, the sync pattern, and every menu octet framed least significant bit first; the cursor is then back at the start and
nothing else has changed. In `SENT_ANSAM` the first bit taken moves the engine to `SENT_CM`. -/
def Obligations.V8TransmitSequence : Prop :=
  (∀ s : State, (s.v8.phase = .sentCm ∨ s.v8.phase = .sentJm) → s.v8.cursor = 0#16 →
    let octets := (List.range s.v8.outlen.toNat).map (ramRead s.v8.out)
    let frame := fun b : Byte => false :: (List.range 8).map b.getLsbD ++ [true]
    let bits := List.replicate 10 true ++ [false, false, false, false, false, false, true, true, true, true] ++
      octets.flatMap frame
    ∃ t rs, runAll (List.replicate bits.length .v8PopTxBit) s = some (t, rs) ∧
      rs = bits.map (fun b => ⟨some .ok, [if b then 1#32 else 0#32], [], []⟩) ∧
      { t with resp := s.resp } = s) ∧
  (∀ s : State, s.v8.phase = .sentAnsam → s.v8.cursor = 0#16 →
    exec .v8PopTxBit s = .next (State.answeredOk { s with v8 := { s.v8 with phase := .sentCm, cursor := 1#16 } }
      [1#32] [] [.v8State .sentAnsam .sentCm]))

/-- R272, R280, R281, R283, R284, R291: a received bit that completes the marker. With an empty buffer it only starts a new
accumulation. With a buffer it parses the menu into the receive set and stores its checksum; an equal checksum confirms, which in
`SENT_CM` goes to `NEGOTIATED` (and in call state `V8` on to the data phase of R340), in `WAIT_CM` and `SENT_ANSAM` builds the
joint menu and goes to `SENT_JM` (from `WAIT_CM` with transmission turned on), and in `SENT_JM` does nothing. The parse keeps the
items the set has, appends valid items of the menu until the set is full, and touches nothing else. A mark bit on an idle parser
that completes no marker only moves the shift register. The data scheme is the open parameter `P_DATA_SCHEME` (log entry 4). -/
def Obligations.V8ReceiveMarker : Prop :=
  (∀ (buf : List Byte) (s : State), s.v8.nrx.toNat ≤ 16 →
    let p := menuParse buf s
    p = { s with v8 := { s.v8 with nrx := p.v8.nrx, rxcaps := p.v8.rxcaps } } ∧ p.v8.nrx.toNat ≤ 16 ∧
    rxItems s <+: rxItems p ∧ ((rxItems s).Nodup → (rxItems p).Nodup) ∧
    (∀ i ∈ rxItems p, i ∈ rxItems s ∨ (itemValid i = true ∧ i ∈ menuItems none buf)) ∧
    (p.v8.nrx = 16#5 ∨ ∀ i ∈ menuItems none buf, itemValid i = true → i ∈ rxItems p) ∧
    (∀ a : Nat, p.v8.nrx.toNat ≤ a → ramRead p.v8.rxcaps a = ramRead s.v8.rxcaps a)) ∧
  ∀ (b : Bool) (s : State),
    (s.v8.phase = .sentAnsam ∨ s.v8.phase = .sentCm ∨ s.v8.phase = .waitCm ∨ s.v8.phase = .sentJm) →
    let sync := (s.v8.sync <<< 1) ||| (if b then 1#10 else 0#10)
    let v8Idle : Codec := ⟨s.codec[(2 : Fin 3)].order, 0x3FF#10, 0#4, .idle, 0#3, 0#8⟩
    let codec := s.codec.set 2 v8Idle (Nat.lt_succ_self 2)
    let buf := (List.range s.v8.rxlen.toNat).map (ramRead s.v8.rxbuf)
    let p := menuParse buf s
    let v : V8Regs :=
      { s.v8 with
        sync := sync, zrun := 0#2, rxlen := 0#5, ck := menuChecksum buf, ckv := true, nrx := p.v8.nrx,
        rxcaps := p.v8.rxcaps }
    let same := s.v8.ckv = true ∧ s.v8.ck = menuChecksum buf
    (sync ≠ 0x00F#10 → s.codec[(2 : Fin 3)].pst = .idle → b = true →
      exec (.v8PushRxBit b) s = .next (State.answeredOk { s with v8 := { s.v8 with sync := sync } } [] [] [])) ∧
    (sync = 0x00F#10 → s.v8.rxlen = 0#5 →
      exec (.v8PushRxBit b) s = .next (State.answeredOk
        { s with codec := codec, v8 := { s.v8 with sync := sync, zrun := 0#2 } } [] [] [])) ∧
    (sync = 0x00F#10 → s.v8.rxlen ≠ 0#5 → (¬ same ∨ s.v8.phase = .sentJm) →
      exec (.v8PushRxBit b) s = .next (State.answeredOk { s with codec := codec, v8 := v } [] [] [])) ∧
    (sync = 0x00F#10 → s.v8.rxlen ≠ 0#5 → same → s.v8.phase = .sentCm → s.callState ≠ .v8 →
      exec (.v8PushRxBit b) s = .next (State.answeredOk
        { s with codec := codec, v8 := { v with phase := .negotiated } } [] [] [.v8State .sentCm .negotiated])) ∧
    (sync = 0x00F#10 → s.v8.rxlen ≠ 0#5 → same → s.v8.phase = .sentCm → s.callState = .v8 →
      ∃ d : State, exec (.fskSelect s.dataSchemeId) s = .next d ∧
        exec (.v8PushRxBit b) s = .next (State.answeredOk
          { s.dataPhase d with codec := d.codec.set 2 v8Idle (Nat.lt_succ_self 2), v8 := { v with phase := .negotiated } }
          [] [] [.v8State .sentCm .negotiated, .timerReq .preData])) ∧
    (sync = 0x00F#10 → s.v8.rxlen ≠ 0#5 → same → (s.v8.phase = .waitCm ∨ s.v8.phase = .sentAnsam) →
      ∃ out : Ram 8,
        let octets := menuOctets ((txItems s).filter (fun i => (rxItems p).contains i))
        storedFrom s.v8.out out octets ∧
        exec (.v8PushRxBit b) s = .next (State.answeredOk
          { s with
            codec := codec,
            fsk := { s.fsk with txen := if s.v8.phase = .waitCm then true else s.fsk.txen },
            v8 := { v with phase := .sentJm, out := out, outlen := BitVec.ofNat 5 octets.length, cursor := 0#16 } }
          [] [] [.v8State s.v8.phase .sentJm]))

/-- R282, R291: a received bit that completes no marker steps the `V8` parser; a byte it completes is stored behind the others
while there is room, counts for the run of zero bytes or ends it, and in `SENT_JM` the third zero byte in a row goes to
`NEGOTIATED` (and in call state `V8` on to the data phase of R340). Nothing else changes. The data scheme is the open parameter
`P_DATA_SCHEME` (log entry 4). -/
def Obligations.V8ReceiveByte : Prop :=
  ∀ (b : Bool) (s : State),
    (s.v8.phase = .sentAnsam ∨ s.v8.phase = .sentCm ∨ s.v8.phase = .waitCm ∨ s.v8.phase = .sentJm) →
    let sync := (s.v8.sync <<< 1) ||| (if b then 1#10 else 0#10)
    let c := s.codec[(2 : Fin 3)]
    sync ≠ 0x00F#10 →
    ∃ u : State, exec (.frmPush 2 b) s = .next u ∧
      ((c.pst ≠ .stop ∨ b = false) →
        exec (.v8PushRxBit b) s = .next (State.answeredOk { u with v8 := { s.v8 with sync := sync } } [] [] [])) ∧
      (c.pst = .stop → b = true →
        let zrun : BitVec 2 := if c.pacc = 0#8 then BitVec.ofNat 2 (min (s.v8.zrun.toNat + 1) 3) else 0#2
        let ends := s.v8.phase = .sentJm ∧ zrun = 3#2
        ∃ mem : Ram 8,
          let v : V8Regs :=
            { s.v8 with
              sync := sync, zrun := zrun, rxbuf := mem,
              rxlen := if s.v8.rxlen.toNat < 16 then s.v8.rxlen + 1#5 else s.v8.rxlen }
          (∀ a : Nat, ramRead mem a =
            if a = s.v8.rxlen.toNat ∧ s.v8.rxlen.toNat < 16 then c.pacc else ramRead s.v8.rxbuf a) ∧
          (¬ ends → exec (.v8PushRxBit b) s = .next (State.answeredOk { u with v8 := v } [] [] [])) ∧
          (ends → s.callState ≠ .v8 → exec (.v8PushRxBit b) s = .next (State.answeredOk
            { u with v8 := { v with phase := .negotiated } } [] [] [.v8State .sentJm .negotiated])) ∧
          (ends → s.callState = .v8 → ∃ d : State, exec (.fskSelect s.dataSchemeId) u = .next d ∧
            exec (.v8PushRxBit b) s = .next (State.answeredOk
              { u.dataPhase d with v8 := { v with phase := .negotiated } }
              [] [] [.v8State .sentJm .negotiated, .timerReq .preData])))

/-- R272: parsing the menu that a set of items encodes to gives exactly the items of the set, when the menu was not truncated: at most
thirteen items outside the three modulation octets. -/
def Obligations.MenuRoundTrip : Prop :=
  ∀ items : List Byte, items.Nodup → (∀ i ∈ items, itemValid i = true) →
    (items.filter (fun i => decide (i.toNat < 0x20) || decide (0x50 ≤ i.toNat))).length ≤ 13 →
    (∀ i : Byte, i ∈ menuItems none (menuOctets items) ↔ i ∈ items)

/-- R293: in `NEGOTIATED`, `STOPPED` and `IDLE` the engine's sample and bit operations give zeros and ones, discard what they are given
and change nothing, through the façade too; only a start leaves these phases. -/
def Obligations.TerminalPhases : Prop :=
  (∀ s : State, (s.v8.phase = .idle ∨ s.v8.phase = .negotiated ∨ s.v8.phase = .stopped) →
    (∀ count : BitVec 16, exec (.v8Tx count) s = .next (s.answeredOk [] (List.replicate count.toNat 0#32) [])) ∧
    (∀ xs : List Word, exec (.v8Rx xs) s = .next (s.answeredOk [] [] [])) ∧
    exec .v8PopTxBit s = .next (s.answeredOk [1#32] [] []) ∧
    (∀ b : Bool, exec (.v8PushRxBit b) s = .next (s.answeredOk [] [] [])) ∧
    (s.callState = .v8 →
      (∀ count : BitVec 16, exec (.pull count) s =
        .next (s.answeredOk [count.setWidth 32] (List.replicate count.toNat 0#32) [])) ∧
      (∀ xs : List Word, exec (.push xs) s = .next (s.answeredOk [] [] [])))) ∧
  (∀ (i : Instr) (s t : State), (s.v8.phase = .idle ∨ s.v8.phase = .negotiated ∨ s.v8.phase = .stopped) →
    (∀ role tone, i ≠ .v8Start role tone) → i ≠ .timerFire .postDial → exec i s = .next t →
    (t.v8.phase = .idle ∨ t.v8.phase = .negotiated ∨ t.v8.phase = .stopped))

/-- R276, R285, R286, R287, R288, R289: transmitting, `TX_ANS` sends the tone's samples, and the sample that ends the tone makes
V21 ready, builds the Call Menu and goes to `SENT_ANSAM`; the menu phases modulate the outgoing bits; the other phases are
silent. Receiving, `RX_ANS` feeds the classifier as `DET_SINGLE` does, and the block it classifies `NEW` makes V21 ready to receive
and goes to `WAIT_CM`; the menu phases demodulate, and the bit that ends a symbol goes to the bit sink; `TX_ANS` discards. -/
def Obligations.V8Samples : Prop :=
  (∀ (count : BitVec 16) (s : State), s.v8.phase = .txAns →
    (s.tone.active = false ∨ s.tone.finite = false ∨ count.toNat < s.tone.left.toNat ∨ count = 1#16) →
    ∃ t : State, exec (.toneTx count) s = .next t ∧ exec (.v8Tx count) s = .next t) ∧
  (∀ s : State, s.v8.phase = .txAns → s.tone.active = true → s.tone.finite = true → s.tone.left = 1#32 →
    s.tone.succ = 0#8 → schemeUsable s.srate 1 = true →
    ∃ (d : State) (tone : ToneTx) (out : Ram 8) (y : Word), exec (.fskSelect 1#8) s = .next d ∧
      tone.active = false ∧ tone.id = s.tone.id ∧ storedFrom s.v8.out out (menuOctets (txItems s)) ∧
      exec (.v8Tx 1#16) s = .next (State.answeredOk (s.answerToneDone d tone out) [] [y]
        [.toneDone s.tone.id, .v8State .txAns .sentAnsam])) ∧
  (∀ (count : BitVec 16) (s : State),
    (s.v8.phase = .rxAns ∨ s.v8.phase = .waitCm ∨
      ((s.v8.phase = .sentAnsam ∨ s.v8.phase = .sentCm ∨ s.v8.phase = .sentJm) ∧
        (s.fsk.scheme = 0#8 ∨ s.fsk.txen = false))) →
    exec (.v8Tx count) s = .next (s.answeredOk [] (List.replicate count.toNat 0#32) [])) ∧
  (∀ (c : Fin 2) (s : State), (s.v8.phase = .sentAnsam ∨ s.v8.phase = .sentCm ∨ s.v8.phase = .sentJm) →
    s.fsk.scheme ≠ 0#8 → s.fsk.txen = true → s.fsk.txch.toNat = c.val →
    let x := s.chan[c]
    let ph := x.modPh + (if x.modBit then x.inc1 else x.inc0)
    let y : Word := BitVec.ofInt 32 (sine x.modPh)
    (x.modClk.toNat + x.binc.toNat < 2 ^ 32 →
      exec (.v8Tx 1#16) s = .next (State.answeredOk
        { s with chan := s.chan.set c { x with modPh := ph, modClk := x.modClk + x.binc } c.isLt } [] [y] [])) ∧
    (2 ^ 32 ≤ x.modClk.toNat + x.binc.toNat → ∃ u : State, exec .v8PopTxBit s = .next u ∧
      exec (.v8Tx 1#16) s = .next (State.answeredOk
        { u with
          chan := s.chan.set c
            { x with modPh := ph, modClk := x.modClk + x.binc, modBit := decide (u.resp.results = [1#32]) } c.isLt }
        [] [y] u.resp.events))) ∧
  (∀ (xs : List Word) (s : State), s.v8.phase = .rxAns → s.det.n ≠ 0#5 → s.det.fill.toNat < 256 →
    s.det.fill.toNat + xs.length ≤ 256 → schemeUsable s.srate 1 = true →
    ∃ (t d : State) (cls id used : Word), exec (.detSingle xs) s = .next t ∧ t.resp.results = [cls, id, used] ∧
      exec (.fskSelect 1#8) t = .next d ∧
      exec (.v8Rx xs) s = .next (
        if cls = 2#32 then
          State.answeredOk
            { t.withFskOf d with
              fsk := { d.fsk with txch := 0#1, rxch := 1#1, txen := false },
              v8 := { t.v8 with phase := .waitCm } } [] [] [.v8State .rxAns .waitCm]
        else t.answeredOk [] [] [])) ∧
  (∀ (xs : List Word) (s : State),
    (s.v8.phase = .txAns ∨
      ((s.v8.phase = .sentAnsam ∨ s.v8.phase = .sentCm ∨ s.v8.phase = .waitCm ∨ s.v8.phase = .sentJm) ∧
        s.fsk.scheme = 0#8)) →
    exec (.v8Rx xs) s = .next (s.answeredOk [] [] [])) ∧
  (∀ (x : Word) (c : Fin 2) (s : State),
    (s.v8.phase = .sentAnsam ∨ s.v8.phase = .sentCm ∨ s.v8.phase = .waitCm ∨ s.v8.phase = .sentJm) →
    s.fsk.scheme ≠ 0#8 → s.fsk.rxch.toNat = c.val →
    let s1 : State := { s with chan := s.chan.set c (s.chan[c].store x) c.isLt }
    let est := estimateBit s1 c.val
    let r := (s.chan[c].store x).tick est
    let s2 : State := { s with chan := s.chan.set c r.1 c.isLt }
    (r.2 = false → exec (.v8Rx [x]) s = .next (s2.answeredOk [] [] [])) ∧
    (r.2 = true → ∃ u : State, exec (.v8PushRxBit est) s2 = .next u ∧
      exec (.v8Rx [x]) s = .next (u.answeredOk [] [] u.resp.events)))

/-! ### Façade -/

/-- R333: `PULL` answers its count and takes its samples from the engine that the call state names: none on hook and while dialing,
where nothing changes; the tone transmitter off hook; the V.8 engine; the FSK modulator with the data path. The call state stays. -/
def Obligations.PullDispatch : Prop :=
  ∀ (count : BitVec 16) (s : State),
    let relay := fun i : Instr => ∃ t : State, exec i s = .next t ∧ t.callState = s.callState ∧
      exec (.pull count) s = .next (t.answeredOk [count.setWidth 32] t.resp.samples t.resp.events)
    ((s.callState = .onHook ∨ s.callState = .dialing) →
      exec (.pull count) s = .next (s.answeredOk [count.setWidth 32] (List.replicate count.toNat 0#32) [])) ∧
    (s.callState = .offHookIdle → relay (.toneTx count)) ∧
    (s.callState = .v8 → relay (.v8Tx count)) ∧
    (s.callState = .data → relay (.fskTx count))

/-- R334, R335, R336: `PUSH` gives its samples to the engine that the call state names: none on hook; the V.8 engine; the FSK
demodulator with the data path; off hook and while dialing the classifier's dual variant, where a block that ends with a DTMF
digit classified `NEW` asks for the post-dial timer and, off hook, silences the tone and goes to dialing. -/
def Obligations.PushDispatch : Prop :=
  ∀ (xs : List Word) (s : State),
    (s.callState = .onHook → exec (.push xs) s = .next (s.answeredOk [] [] [])) ∧
    (s.callState = .v8 → ∃ t : State, exec (.v8Rx xs) s = .next t ∧ exec (.push xs) s = .next t) ∧
    (s.callState = .data → ∃ t : State, exec (.fskRx xs) s = .next t ∧ exec (.push xs) s = .next t) ∧
    ((s.callState = .offHookIdle ∨ s.callState = .dialing) → 1 ≤ xs.length → s.det.fill.toNat + xs.length ≤ 256 →
      ∃ (t : State) (cls used : Word) (id : Byte), exec (.detDual xs) s = .next t ∧
        t.resp.results = [cls, id.setWidth 32, used] ∧
        exec (.push xs) s = .next (
          if cls = 2#32 ∧ 1 ≤ id.toNat ∧ id.toNat ≤ 0x10 then
            State.answeredOk
              { t with
                tone := if s.callState = .offHookIdle then ToneTx.reset else s.tone,
                callState := .dialing,
                timerPend := s.timerPend ||| 0b01#2 } [] [] [.timerReq .postDial]
          else t.answeredOk [] [] []))

/-- R327, R328, R329, R330, R331, R332: going on hook puts everything at its reset value but `SRATE`, the bit orders and the transmit
capability set; going off hook starts a dial tone that is not empty as `TONE_START` does and
configures the classifier as `DET_CFG` of the sixteen DTMF tones does; `RESTART` is the one after the other; nothing else changes. -/
def Obligations.HookOps : Prop :=
  ∀ s : State,
    let idle := fun k : Fin 3 => (⟨s.codec[k].order, 0x3FF#10, 0#4, .idle, 0#3, 0#8⟩ : Codec)
    let dtmf : List Word :=
      [1#32, 2#32, 3#32, 4#32, 5#32, 6#32, 7#32, 8#32, 9#32, 10#32, 11#32, 12#32, 13#32, 14#32, 15#32, 16#32]
    reads 0x61#8 0#8 0#16 [] [] .isOnHook ∧ reads 0x62#8 0#8 0#16 [] [] .setOnHook ∧
    exec .isOnHook s = .next (s.answeredOk [if s.callState = .onHook then 1#32 else 0#32] [] []) ∧
    exec .setOnHook s = .next (State.answeredOk
      { State.reset with
        srate := s.srate, codec := #v[idle 0, idle 1, idle 2],
        v8 := { V8Regs.reset with ntx := s.v8.ntx, txcaps := s.v8.txcaps }, pending := s.pending } [] [] []) ∧
    (∀ t : Byte, s.callState ≠ .onHook ∨ toneValid t.toNat = false →
      exec (.setOffHook t) s = .next (s.answered .fail [] [] [])) ∧
    (∀ t : Byte, s.callState = .onHook → toneValid t.toNat = true →
      (toneDesc t.toNat).playMs = 0 ∨ msToSamples s.srate (toneDesc t.toNat).playMs ≠ 0#32 →
      ∃ u w : State, exec (.toneStart t 0xFFFF#16 0#32 16384#32) s = .next u ∧ u.tone.active = true ∧
        exec (.detCfg dtmf) s = .next w ∧ w.resp.status = some .ok ∧
        exec (.setOffHook t) s = .next (State.answeredOk
          { s with callState := .offHookIdle, dialTone := t, tone := u.tone, det := w.det, gz := w.gz } [] [] [])) ∧
    (∀ t : Byte, toneValid t.toNat = false → exec (.restart t) s = .next (s.answered .fail [] [] [])) ∧
    (∀ t : Byte, toneValid t.toNat = true →
      ∃ u w : State, exec .setOnHook s = .next u ∧ exec (.setOffHook t) u = .next w ∧ w.resp.status = some .ok ∧
        exec (.restart t) s = .next w)

/-- R343: a serial bit steps the `DTE` parser; the byte it completes is queued in the data phase while there is room, as `TX_BYTE`
queues it, and dropped otherwise; nothing else changes. -/
def Obligations.SerialBit : Prop :=
  ∀ (b : Bool) (s : State), ∃ u : State, exec (.frmPush 1 b) s = .next u ∧
    ((s.codec[(1 : Fin 3)].pst ≠ .stop ∨ b = false ∨ s.callState ≠ .data ∨ s.txq.count.toNat = 64) →
      exec (.serialBit b) s = .next (u.answeredOk [] [] [])) ∧
    (s.codec[(1 : Fin 3)].pst = .stop → b = true → s.callState = .data → s.txq.count.toNat ≠ 64 →
      ∃ t : State, exec (.txByte s.codec[(1 : Fin 3)].pacc) u = .next t ∧ exec (.serialBit b) s = .next t)

/-- R337, R338, R342: a timer that was not requested is `FAIL`, and so is the post-dial timer where V21 is not usable; the post-dial
timer clears its bit, turns the classifier off, goes to call state `V8` and starts the engine as `V8_START` with ANSam does; the
pre-data timer clears its bit and queues the bootstrap bytes that fit; every other word of the queue's memory reads as before.
The bytes are the open parameter `P_BOOTSTRAP` (log entry 5): this holds whatever they are. -/
def Obligations.TimerFire : Prop :=
  ∀ s : State,
    (s.timerPend.getLsbD 0 = false ∨ schemeUsable s.srate 1 = false →
      exec (.timerFire .postDial) s = .next (s.answered .fail [] [] [])) ∧
    (s.timerPend.getLsbD 1 = false → exec (.timerFire .preData) s = .next (s.answered .fail [] [] [])) ∧
    (s.timerPend.getLsbD 0 = true → schemeUsable s.srate 1 = true →
      ∃ u : State, exec (.v8Start .send 0x15#16) s = .next u ∧
        exec (.timerFire .postDial) s = .next (State.answeredOk
          { u with callState := .v8, timerPend := s.timerPend &&& 0b10#2, det := Detector.reset } [] [] u.resp.events)) ∧
    (s.timerPend.getLsbD 1 = true → s.txq.count.toNat ≤ 64 → ∃ (mem : Ram 8) (count : BitVec 7),
      exec (.timerFire .preData) s = .next (State.answeredOk
        { s with
          timerPend := s.timerPend &&& 0b01#2, txq := { mem := mem, head := s.txq.head, count := count } } [] [] []) ∧
      count.toNat = min 64 (s.txq.count.toNat + Config.bootstrap.length) ∧
      (∀ j : Nat, j < s.txq.count.toNat →
        ramRead mem ((s.txq.head.toNat + j) % 64) = ramRead s.txq.mem ((s.txq.head.toNat + j) % 64)) ∧
      (∀ j : Nat, s.txq.count.toNat + j < count.toNat →
        ramRead mem ((s.txq.head.toNat + s.txq.count.toNat + j) % 64) = Config.bootstrap.getD j 0#8) ∧
      (∀ a : Nat, (∀ j : Nat, s.txq.count.toNat + j < count.toNat → a ≠ (s.txq.head.toNat + s.txq.count.toNat + j) % 64) →
        ramRead mem a = ramRead s.txq.mem a))

/-! ### Blocks of samples -/

/-- R409: a block of samples asked for in two parts gives the same state and the same concatenated samples and events as the one
block, for every operation that synthesises. -/
def Obligations.TransmitSplit : Prop :=
  ∀ (m n : BitVec 16) (s : State), m.toNat + n.toNat < 65536 →
    let split := fun (op : BitVec 16 → Instr) => ∃ t u : State,
      exec (op m) s = .next t ∧ exec (op n) t = .next u ∧ ∃ results : List Word,
      exec (op (m + n)) s = .next (u.answeredOk results (t.resp.samples ++ u.resp.samples) (t.resp.events ++ u.resp.events))
    split Instr.toneTx ∧ split Instr.fskTx ∧ split Instr.v8Tx ∧ split Instr.pull

/-- R409: a block of samples given in two parts gives the same state and the same concatenated events as the one block: for `FSK_RX`,
for `V8_RX`, and for `PUSH` outside call state `V8` (where a block that ends the negotiation discards its rest). -/
def Obligations.ReceiveSplit : Prop :=
  ∀ (xs ys : List Word) (s : State), s.detInv →
    let split := fun (op : List Word → Instr) => ∃ t u : State,
      exec (op xs) s = .next t ∧ exec (op ys) t = .next u ∧
      exec (op (xs ++ ys)) s = .next (u.answeredOk [] [] (t.resp.events ++ u.resp.events))
    split Instr.fskRx ∧ split Instr.v8Rx ∧ (s.callState ≠ .v8 → split Instr.push)
end

