-- ==== Sys2Proof/Laws/Config.lean ====
section
/-! SUPPORT. The values at which the machine reads its configuration record, and that the record keeps the constraints of
`spec/00_scope.md` R8. -/

namespace Sys2Proof.Laws

@[simp] theorem srateDefault_eq : Config.srateDefault = 16000 := rfl

@[simp] theorem tableShift_eq : Config.tableShift = 22 := rfl

@[simp] theorem tableSize_eq : Config.tableSize = 1024 := rfl

@[simp] theorem frac_eq : Config.frac = 14 := rfl

theorem one_eq : Config.one = 16384#32 := rfl

theorem half_eq : Config.half = 0x80000000#32 := rfl

theorem quarter_eq : Config.quarter = 0x40000000#32 := rfl

@[simp] theorem ringSize_eq : Config.ringSize = 512 := rfl

@[simp] theorem detBlock_eq : Config.detBlock = 256 := rfl

@[simp] theorem detPowerMin_eq : Config.detPowerMin = 1073741824 := rfl

@[simp] theorem detTwistShift_eq : Config.detTwistShift = 4 := rfl

theorem clkNudge_eq : Config.clkNudge = 0x10000000#32 := rfl

@[simp] theorem txqCap_eq : Config.txqCap = 64 := rfl

@[simp] theorem menuCap_eq : Config.menuCap = 16 := rfl

@[simp] theorem capsetCap_eq : Config.capsetCap = 16 := rfl

@[simp] theorem v8PreambleOnes_eq : Config.v8PreambleOnes = 10 := rfl

theorem v8Sync_eq : Config.v8Sync = 0x00F#10 := rfl

@[simp] theorem v8ZeroFrames_eq : Config.v8ZeroFrames = 3 := rfl

theorem v8Scheme_eq : Config.v8Scheme = 1#8 := rfl

theorem v8AnswerTone_eq : Config.v8AnswerTone = 0x15#8 := rfl

@[simp] theorem params_dataScheme : Config.params.dataScheme = Config.dataScheme := rfl

@[simp] theorem params_tones : Config.params.tones = Machine.toneCatalog := rfl

@[simp] theorem params_schemes : Config.params.schemes = Machine.schemeCatalog := rfl

@[simp] theorem params_itemRanges : Config.params.itemRanges = Machine.itemSpace := rfl

/-- "a byte string of length 0 to 64" (`spec/46_facade_host.md` R342). -/
theorem bootstrap_length : Config.bootstrap.length ≤ 64 := List.length_take_le 64 _

/-- The configuration keeps the constraints of R8. -/
theorem params_wf : Config.params.wf = true := by decide

end Sys2Proof.Laws
end

