-- ==== Sys2Proof/Laws/Encoding.lean ====
section
/-! SUPPORT. The fields of a command word, and the one-bit and counted fields read back. -/

namespace Sys2Proof.Laws

open Sys2Proof.Machine

/-! ### Fields of a command word (`spec/30_encoding.md` R91) -/

/-- Bit `i` of a command word. -/
theorem mkCw_getLsbD (op sel : BitVec 8) (imm : BitVec 16) (i : Nat) :
    (mkCw op sel imm).getLsbD i =
      if i < 16 then imm.getLsbD i else if i < 24 then sel.getLsbD (i - 16) else op.getLsbD (i - 24) := by
  have h1 := BitVec.getLsbD_append (x := op ++ sel) (y := imm) (i := i)
  have h2 := BitVec.getLsbD_append (x := op) (y := sel) (i := i - 16)
  refine h1.trans ?_
  split
  · rfl
  · refine h2.trans ?_
    have e : (i - 16 < 8) = (i < 24) := by simp only [eq_iff_iff]; omega
    simp only [e, show i - 16 - 8 = i - 24 by omega]

@[simp] theorem cwOp_mkCw (op sel : BitVec 8) (imm : BitVec 16) : cwOp (mkCw op sel imm) = op := by
  apply BitVec.eq_of_getLsbD_eq
  intro i hi
  simp only [cwOp, BitVec.getLsbD_extractLsb', mkCw_getLsbD, hi, decide_true, Bool.true_and]
  rw [if_neg (by omega), if_neg (by omega), show 24 + i - 24 = i by omega]

@[simp] theorem cwSel_mkCw (op sel : BitVec 8) (imm : BitVec 16) : cwSel (mkCw op sel imm) = sel := by
  apply BitVec.eq_of_getLsbD_eq
  intro i hi
  simp only [cwSel, BitVec.getLsbD_extractLsb', mkCw_getLsbD, hi, decide_true, Bool.true_and]
  rw [if_neg (by omega), if_pos (by omega), show 16 + i - 16 = i by omega]

@[simp] theorem cwImm_mkCw (op sel : BitVec 8) (imm : BitVec 16) : cwImm (mkCw op sel imm) = imm := by
  apply BitVec.eq_of_getLsbD_eq
  intro i hi
  simp only [cwImm, BitVec.getLsbD_extractLsb', mkCw_getLsbD, hi, decide_true, Bool.true_and, Nat.zero_add, if_true]

/-- A command word is its three fields: no bit of it is dropped. -/
theorem mkCw_fields (cw : Word) : mkCw (cwOp cw) (cwSel cw) (cwImm cw) = cw := by
  apply BitVec.eq_of_getLsbD_eq
  intro i hi
  simp only [mkCw_getLsbD, cwOp, cwSel, cwImm, BitVec.getLsbD_extractLsb']
  split
  · simp [*]
  · split
    · have : i - 16 < 8 := by omega
      simp [this, show 16 + (i - 16) = i by omega]
    · have : i - 24 < 8 := by omega
      simp [this, show 24 + (i - 24) = i by omega]

/-! ### Operand fields read back -/

@[simp] theorem bitField_bitImm (b : Bool) : bitField (bitImm b) = b := by cases b <;> rfl

@[simp] theorem orderField_orderImm (o : BitOrder) : orderField (orderImm o) = o := by cases o <;> rfl

@[simp] theorem roleField_roleSel (r : Role) : roleField (roleSel r) = r := by cases r <;> rfl

@[simp] theorem timerField_timerSel (w : Timer) : timerField (timerSel w) = w := by cases w <;> rfl

@[simp] theorem componentField_correlateSel (t : Fin 4) (q : Component) : componentField (correlateSel t q) = q := by
  revert t; cases q <;> decide

theorem bitImm_lt (b : Bool) : (bitImm b).toNat < 2 := by cases b <;> decide

theorem orderImm_lt (o : BitOrder) : (orderImm o).toNat < 2 := by cases o <;> decide

theorem timerSel_lt (w : Timer) : (timerSel w).toNat < 2 := by cases w <;> decide

theorem roleSel_lt (r : Role) : (roleSel r).toNat < 2 := by cases r <;> decide

theorem correlateSel_lt (t : Fin 4) (q : Component) : (correlateSel t q).toNat < 8 := by
  revert t; cases q <;> decide

theorem byteImm_lt (b : Byte) : (b.setWidth 16).toNat < 256 := by
  have := b.isLt
  simp only [BitVec.toNat_setWidth]
  omega

/-- A small index as an 8-bit field. -/
theorem selOf_toNat {n : Nat} (u : Fin n) (hn : n ≤ 256) : (BitVec.ofNat 8 u.val).toNat = u.val := by
  have := u.isLt
  simp only [BitVec.toNat_ofNat]
  omega

/-- The count of words that fit the field. -/
theorem countImm_toNat (xs : List Word) (h : countFits xs = true) : (countImm xs).toNat = xs.length := by
  simp only [countFits, decide_eq_true_eq] at h
  simp only [countImm, BitVec.toNat_ofNat]
  omega

end Sys2Proof.Laws
end

