-- ==== Sys2Proof/Laws/Ram.lean ====
section
/-! SUPPORT. The laws of word memories: what an address reads as after a store, that the other addresses read as before, and that
every store keeps the canonical form. -/

namespace Sys2Proof.Laws

open Sys2Proof.Machine

variable {w : Nat}

/-! ### Reads -/

@[simp] theorem ramRead_nil (a : Nat) : ramRead ([] : Ram w) a = 0#w := rfl

theorem ramRead_cons (b : Nat) (v : BitVec w) (m : Ram w) (a : Nat) :
    ramRead ((b, v) :: m) a = if b = a then v else ramRead m a := rfl

/-- An address that no entry has reads 0. -/
theorem ramRead_notListed (m : Ram w) (a : Nat) (h : ∀ e ∈ m, e.1 ≠ a) : ramRead m a = 0#w := by
  induction m with
  | nil => rfl
  | cons e m ih =>
    obtain ⟨b, v⟩ := e
    rw [ramRead_cons, if_neg (h (b, v) (by simp)), ih (fun e he => h e (by simp [he]))]

/-- Where the first part lists nothing, the second part answers. -/
theorem ramRead_append_right (m m' : Ram w) (a : Nat) (h : ∀ e ∈ m, e.1 ≠ a) : ramRead (m ++ m') a = ramRead m' a := by
  induction m with
  | nil => rfl
  | cons e m ih =>
    obtain ⟨b, v⟩ := e
    rw [List.cons_append, ramRead_cons, if_neg (h (b, v) (by simp)), ih (fun e he => h e (by simp [he]))]

/-- Where the second part lists nothing, the first part answers. -/
theorem ramRead_append_left (m m' : Ram w) (a : Nat) (h : ∀ e ∈ m', e.1 ≠ a) : ramRead (m ++ m') a = ramRead m a := by
  induction m with
  | nil => exact ramRead_notListed m' a h
  | cons e m ih =>
    obtain ⟨b, v⟩ := e
    rw [List.cons_append, ramRead_cons, ramRead_cons, ih]

/-- A filter that keeps address `a` does not change what it reads as. -/
theorem ramRead_filter (m : Ram w) (p : Nat → Bool) (a : Nat) (h : p a = true) :
    ramRead (m.filter (fun e => p e.1)) a = ramRead m a := by
  induction m with
  | nil => rfl
  | cons e m ih =>
    obtain ⟨b, v⟩ := e
    by_cases hb : p b = true
    · simp only [List.filter_cons, hb, if_true, ramRead_cons, ih]
    · have : b ≠ a := fun he => hb (he ▸ h)
      simp [hb, ramRead_cons, this, ih]

/-! ### Entries of a store -/

/-- A store's entries lie inside the range stored to. -/
theorem ramEntries_mem (a : Nat) (vs : List (BitVec w)) {e : Nat × BitVec w} (h : e ∈ ramEntries a vs) :
    a ≤ e.1 ∧ e.1 < a + vs.length := by
  induction vs generalizing a with
  | nil => simp [ramEntries] at h
  | cons v vs ih =>
    simp only [ramEntries] at h
    split at h
    · have := ih (a + 1) h
      simp only [List.length_cons]; omega
    · rcases List.mem_cons.mp h with rfl | h
      · simp
      · have := ih (a + 1) h
        simp only [List.length_cons]; omega

theorem ramRead_ramEntries (a : Nat) (vs : List (BitVec w)) (i : Nat) :
    ramRead (ramEntries a vs) (a + i) = vs.getD i 0#w := by
  induction vs generalizing a i with
  | nil => simp [ramEntries]
  | cons v vs ih =>
    cases i with
    | zero =>
      simp only [ramEntries, Nat.add_zero, List.getD_cons_zero]
      split
      · rename_i hv
        rw [hv]
        exact ramRead_notListed _ _ (fun e he => by have := ramEntries_mem (a + 1) vs he; omega)
      · simp [ramRead_cons]
    | succ i =>
      have e : a + (i + 1) = a + 1 + i := by omega
      have ne : a ≠ a + 1 + i := by omega
      simp only [ramEntries, List.getD_cons_succ]
      split
      · rw [e, ih]
      · rw [e, ramRead_cons, if_neg ne, ih]

/-! ### Reads after a store -/

/-- What any address reads as after a store: the word stored there, or what it read as before. -/
theorem ramRead_ramFill (m : Ram w) (base : Nat) (vs : List (BitVec w)) (a : Nat) :
    ramRead (ramFill m base vs) a =
      if base ≤ a ∧ a < base + vs.length then vs.getD (a - base) 0#w else ramRead m a := by
  unfold ramFill
  by_cases h1 : a < base
  · have hn : ¬ (base ≤ a ∧ a < base + vs.length) := by omega
    rw [if_neg hn, List.append_assoc, ramRead_append_left]
    · exact ramRead_filter m (fun b => decide (b < base)) a (by simpa using h1)
    · intro e he
      rcases List.mem_append.mp he with he | he
      · have := ramEntries_mem base vs he; omega
      · have := (List.mem_filter.mp he).2
        simp only [decide_eq_true_eq] at this; omega
  · have hl : ∀ e ∈ m.filter (fun e => decide (e.1 < base)), e.1 ≠ a := by
      intro e he
      have := (List.mem_filter.mp he).2
      simp only [decide_eq_true_eq] at this; omega
    rw [List.append_assoc, ramRead_append_right _ _ _ hl]
    by_cases h2 : a < base + vs.length
    · rw [if_pos ⟨by omega, h2⟩, ramRead_append_left]
      · have := ramRead_ramEntries base vs (a - base)
        rwa [show base + (a - base) = a by omega] at this
      · intro e he
        have := (List.mem_filter.mp he).2
        simp only [decide_eq_true_eq] at this; omega
    · rw [if_neg (by omega), ramRead_append_right]
      · exact ramRead_filter m (fun b => decide (base + vs.length ≤ b)) a (by simp; omega)
      · intro e he
        have := ramEntries_mem base vs he; omega

/-- A read after a write to the same address gives the word written; every other address reads as before. -/
theorem ramRead_ramWrite (m : Ram w) (a b : Nat) (v : BitVec w) :
    ramRead (ramWrite m a v) b = if b = a then v else ramRead m b := by
  unfold ramWrite
  rw [ramRead_ramFill]
  by_cases h : b = a
  · subst h; simp
  · have : ¬ (a ≤ b ∧ b < a + [v].length) := by simp; omega
    rw [if_neg this, if_neg h]

@[simp] theorem ramRead_ramWrite_same (m : Ram w) (a : Nat) (v : BitVec w) : ramRead (ramWrite m a v) a = v := by
  simp [ramRead_ramWrite]

@[simp] theorem ramTake_length (m : Ram w) (n : Nat) : (ramTake m n).length = n := by simp [ramTake]

theorem ramTake_getElem (m : Ram w) (n i : Nat) (h : i < n) : (ramTake m n)[i]'(by simpa using h) = ramRead m i := by
  simp [ramTake]

theorem ramTake_succ (m : Ram w) (n : Nat) : ramTake m (n + 1) = ramTake m n ++ [ramRead m n] := by
  simp [ramTake, List.range_succ]

theorem ramTake_congr (m m' : Ram w) (n : Nat) (h : ∀ i, i < n → ramRead m i = ramRead m' i) : ramTake m n = ramTake m' n := by
  simp only [ramTake]
  exact List.map_congr_left (fun i hi => h i (List.mem_range.mp hi))

/-! ### The canonical form -/

theorem ramWfFrom_nil (size lo : Nat) : ramWfFrom size lo ([] : Ram w) = true := rfl

theorem ramWfFrom_cons (size lo a : Nat) (v : BitVec w) (m : Ram w) :
    ramWfFrom size lo ((a, v) :: m) = true ↔ lo ≤ a ∧ a < size ∧ v ≠ 0#w ∧ ramWfFrom size (a + 1) m = true := by
  simp [ramWfFrom, and_assoc]

theorem ramWfFrom_mono {size lo lo' : Nat} {m : Ram w} (h : ramWfFrom size lo m = true) (hl : lo' ≤ lo) :
    ramWfFrom size lo' m = true := by
  cases m with
  | nil => rfl
  | cons e m =>
    obtain ⟨a, v⟩ := e
    rw [ramWfFrom_cons] at h ⊢
    exact ⟨by omega, h.2⟩

/-- The entries of a canonical memory lie between its bounds. -/
theorem ramWfFrom_mem {size lo : Nat} {m : Ram w} (h : ramWfFrom size lo m = true) {e : Nat × BitVec w} (he : e ∈ m) :
    lo ≤ e.1 ∧ e.1 < size := by
  induction m generalizing lo with
  | nil => simp at he
  | cons f m ih =>
    obtain ⟨a, v⟩ := f
    rw [ramWfFrom_cons] at h
    rcases List.mem_cons.mp he with rfl | he
    · exact ⟨h.1, h.2.1⟩
    · have := ih h.2.2.2 he
      omega

theorem ramWfFrom_filter {size lo : Nat} {m : Ram w} (h : ramWfFrom size lo m = true) (p : Nat × BitVec w → Bool) :
    ramWfFrom size lo (m.filter p) = true := by
  induction m generalizing lo with
  | nil => rfl
  | cons e m ih =>
    obtain ⟨a, v⟩ := e
    rw [ramWfFrom_cons] at h
    rw [List.filter_cons]
    split
    · rw [ramWfFrom_cons]
      exact ⟨h.1, h.2.1, h.2.2.1, ih h.2.2.2⟩
    · exact ramWfFrom_mono (ih h.2.2.2) (by omega)

/-- A part with all its addresses below `mid`, followed by a part from `mid` on. -/
theorem ramWfFrom_append {size lo mid : Nat} {m m' : Ram w} (h : ramWfFrom size lo m = true)
    (hm : ∀ e ∈ m, e.1 < mid) (hlo : lo ≤ mid) (h' : ramWfFrom size mid m' = true) :
    ramWfFrom size lo (m ++ m') = true := by
  induction m generalizing lo with
  | nil => exact ramWfFrom_mono h' hlo
  | cons e m ih =>
    obtain ⟨a, v⟩ := e
    rw [ramWfFrom_cons] at h
    have ha : a < mid := hm (a, v) (by simp)
    rw [List.cons_append, ramWfFrom_cons]
    exact ⟨h.1, h.2.1, h.2.2.1, ih h.2.2.2 (fun e he => hm e (by simp [he])) (by omega)⟩

theorem ramWfFrom_ramEntries {size a : Nat} {vs : List (BitVec w)} (h : a + vs.length ≤ size) :
    ramWfFrom size a (ramEntries a vs) = true := by
  induction vs generalizing a with
  | nil => rfl
  | cons v vs ih =>
    simp only [List.length_cons] at h
    simp only [ramEntries]
    split
    · exact ramWfFrom_mono (ih (a := a + 1) (by omega)) (by omega)
    · rename_i hv
      rw [ramWfFrom_cons]
      exact ⟨le_refl _, by omega, hv, ih (by omega)⟩

/-- The part of a canonical memory from `mid` on. -/
theorem ramWfFrom_above {size lo mid : Nat} {m : Ram w} (h : ramWfFrom size lo m = true) :
    ramWfFrom size mid (m.filter (fun e => decide (mid ≤ e.1))) = true := by
  induction m generalizing lo with
  | nil => rfl
  | cons e m ih =>
    obtain ⟨a, v⟩ := e
    rw [ramWfFrom_cons] at h
    by_cases ha : mid ≤ a
    · simp only [List.filter_cons, ha, decide_true, if_true]
      rw [ramWfFrom_cons]
      exact ⟨ha, h.2.1, h.2.2.1, ramWfFrom_filter h.2.2.2 _⟩
    · simp only [List.filter_cons, ha, decide_false]
      exact ih h.2.2.2

/-- Every store that stays inside the memory keeps the canonical form. -/
theorem ramWf_ramFill {size base : Nat} {m : Ram w} {vs : List (BitVec w)} (h : ramWf size m = true)
    (hs : base + vs.length ≤ size) : ramWf size (ramFill m base vs) = true := by
  unfold ramWf ramFill at *
  rw [List.append_assoc]
  refine ramWfFrom_append (mid := base) (ramWfFrom_filter h _) ?_ (Nat.zero_le _) ?_
  · intro e he
    simpa using (List.mem_filter.mp he).2
  · refine ramWfFrom_append (mid := base + vs.length) (ramWfFrom_ramEntries hs) ?_ (by omega) (ramWfFrom_above h)
    intro e he
    exact (ramEntries_mem base vs he).2

/-- Every write to an address of the memory keeps the canonical form. -/
theorem ramWf_ramWrite {size a : Nat} {m : Ram w} {v : BitVec w} (h : ramWf size m = true) (ha : a < size) :
    ramWf size (ramWrite m a v) = true := ramWf_ramFill h (by simpa using ha)

@[simp] theorem ramWf_nil (size : Nat) : ramWf size ([] : Ram w) = true := rfl

/-- Writing the word that an unlisted address reads as leaves the address unlisted. -/
theorem ramWrite_zero_nil (a : Nat) : ramWrite ([] : Ram w) a 0#w = [] := by
  simp [ramWrite, ramFill, ramEntries]

/-- Equal memories are equal data: two canonical memories that read alike at every address are the same list. -/
theorem ramWfFrom_ext {size lo : Nat} {m m' : Ram w} (h : ramWfFrom size lo m = true) (h' : ramWfFrom size lo m' = true)
    (hr : ∀ a, ramRead m a = ramRead m' a) : m = m' := by
  induction m generalizing lo m' with
  | nil =>
    cases m' with
    | nil => rfl
    | cons e m' =>
      obtain ⟨a, v⟩ := e
      rw [ramWfFrom_cons] at h'
      exact absurd (by simpa [ramRead_cons] using (hr a).symm) h'.2.2.1
  | cons e m ih =>
    obtain ⟨a, v⟩ := e
    rw [ramWfFrom_cons] at h
    cases m' with
    | nil => exact absurd (by simpa [ramRead_cons] using hr a) h.2.2.1
    | cons e' m' =>
      obtain ⟨a', v'⟩ := e'
      rw [ramWfFrom_cons] at h'
      have below : ∀ {k b : Nat} {n : Ram w}, ramWfFrom size (k + 1) n = true → b ≤ k → ramRead n b = 0#w := by
        intro k b n hn hb
        exact ramRead_notListed n b (fun e he => by have := ramWfFrom_mem hn he; omega)
      have haa : a = a' := by
        rcases Nat.lt_trichotomy a a' with hlt | heq | hgt
        · have := hr a
          rw [ramRead_cons, if_pos rfl, ramRead_cons, if_neg (by omega), below h'.2.2.2 (by omega)] at this
          exact absurd this h.2.2.1
        · exact heq
        · have := hr a'
          rw [ramRead_cons, if_neg (by omega), ramRead_cons, if_pos rfl, below h.2.2.2 (by omega)] at this
          exact absurd this.symm h'.2.2.1
      subst haa
      have hv : v = v' := by simpa [ramRead_cons] using hr a
      subst hv
      rw [ih h.2.2.2 h'.2.2.2 ?_]
      intro b
      by_cases hb : a = b
      · subst hb
        rw [below h.2.2.2 (le_refl _), below h'.2.2.2 (le_refl _)]
      · simpa [ramRead_cons, hb] using hr b

theorem ramWf_ext {size : Nat} {m m' : Ram w} (h : ramWf size m = true) (h' : ramWf size m' = true)
    (hr : ∀ a, ramRead m a = ramRead m' a) : m = m' := ramWfFrom_ext h h' hr

end Sys2Proof.Laws
end

