-- ==== Sys2Proof/Laws/State.lean ====
section
/-! SUPPORT. One lemma per field of `State` and update of it, true by unfolding, so that no later proof unfolds a record update;
then how answers absorb one another. -/

namespace Sys2Proof.Laws

open Sys2Proof.Machine

variable (s : State)

/-! ### `begin` -/

@[simp] theorem begin_srate : s.begin.srate = s.srate := rfl
@[simp] theorem begin_callState : s.begin.callState = s.callState := rfl
@[simp] theorem begin_dialTone : s.begin.dialTone = s.dialTone := rfl
@[simp] theorem begin_timerPend : s.begin.timerPend = s.timerPend := rfl
@[simp] theorem begin_gz : s.begin.gz = s.gz := rfl
@[simp] theorem begin_iq : s.begin.iq = s.iq := rfl
@[simp] theorem begin_codec : s.begin.codec = s.codec := rfl
@[simp] theorem begin_tone : s.begin.tone = s.tone := rfl
@[simp] theorem begin_det : s.begin.det = s.det := rfl
@[simp] theorem begin_fsk : s.begin.fsk = s.fsk := rfl
@[simp] theorem begin_chan : s.begin.chan = s.chan := rfl
@[simp] theorem begin_txq : s.begin.txq = s.txq := rfl
@[simp] theorem begin_v8 : s.begin.v8 = s.v8 := rfl
@[simp] theorem begin_pending : s.begin.pending = s.pending := rfl
@[simp] theorem begin_resp : s.begin.resp = Response.empty := rfl

/-! ### `emit` -/

@[simp] theorem emit_srate (e : Event) : (s.emit e).srate = s.srate := rfl
@[simp] theorem emit_callState (e : Event) : (s.emit e).callState = s.callState := rfl
@[simp] theorem emit_dialTone (e : Event) : (s.emit e).dialTone = s.dialTone := rfl
@[simp] theorem emit_timerPend (e : Event) : (s.emit e).timerPend = s.timerPend := rfl
@[simp] theorem emit_gz (e : Event) : (s.emit e).gz = s.gz := rfl
@[simp] theorem emit_iq (e : Event) : (s.emit e).iq = s.iq := rfl
@[simp] theorem emit_codec (e : Event) : (s.emit e).codec = s.codec := rfl
@[simp] theorem emit_tone (e : Event) : (s.emit e).tone = s.tone := rfl
@[simp] theorem emit_det (e : Event) : (s.emit e).det = s.det := rfl
@[simp] theorem emit_fsk (e : Event) : (s.emit e).fsk = s.fsk := rfl
@[simp] theorem emit_chan (e : Event) : (s.emit e).chan = s.chan := rfl
@[simp] theorem emit_txq (e : Event) : (s.emit e).txq = s.txq := rfl
@[simp] theorem emit_v8 (e : Event) : (s.emit e).v8 = s.v8 := rfl
@[simp] theorem emit_pending (e : Event) : (s.emit e).pending = s.pending := rfl
@[simp] theorem emit_resp (e : Event) : (s.emit e).resp = { s.resp with events := s.resp.events ++ [e] } := rfl

/-! ### `ok` -/

@[simp] theorem ok_srate (r y : List Word) : (s.ok r y).srate = s.srate := rfl
@[simp] theorem ok_callState (r y : List Word) : (s.ok r y).callState = s.callState := rfl
@[simp] theorem ok_dialTone (r y : List Word) : (s.ok r y).dialTone = s.dialTone := rfl
@[simp] theorem ok_timerPend (r y : List Word) : (s.ok r y).timerPend = s.timerPend := rfl
@[simp] theorem ok_gz (r y : List Word) : (s.ok r y).gz = s.gz := rfl
@[simp] theorem ok_iq (r y : List Word) : (s.ok r y).iq = s.iq := rfl
@[simp] theorem ok_codec (r y : List Word) : (s.ok r y).codec = s.codec := rfl
@[simp] theorem ok_tone (r y : List Word) : (s.ok r y).tone = s.tone := rfl
@[simp] theorem ok_det (r y : List Word) : (s.ok r y).det = s.det := rfl
@[simp] theorem ok_fsk (r y : List Word) : (s.ok r y).fsk = s.fsk := rfl
@[simp] theorem ok_chan (r y : List Word) : (s.ok r y).chan = s.chan := rfl
@[simp] theorem ok_txq (r y : List Word) : (s.ok r y).txq = s.txq := rfl
@[simp] theorem ok_v8 (r y : List Word) : (s.ok r y).v8 = s.v8 := rfl
@[simp] theorem ok_pending (r y : List Word) : (s.ok r y).pending = s.pending := rfl
@[simp] theorem ok_resp (r y : List Word) : (s.ok r y).resp = ⟨some .ok, r, y, s.resp.events⟩ := rfl

/-! ### `failed` -/

@[simp] theorem failed_srate : s.failed.srate = s.srate := rfl
@[simp] theorem failed_callState : s.failed.callState = s.callState := rfl
@[simp] theorem failed_dialTone : s.failed.dialTone = s.dialTone := rfl
@[simp] theorem failed_timerPend : s.failed.timerPend = s.timerPend := rfl
@[simp] theorem failed_gz : s.failed.gz = s.gz := rfl
@[simp] theorem failed_iq : s.failed.iq = s.iq := rfl
@[simp] theorem failed_codec : s.failed.codec = s.codec := rfl
@[simp] theorem failed_tone : s.failed.tone = s.tone := rfl
@[simp] theorem failed_det : s.failed.det = s.det := rfl
@[simp] theorem failed_fsk : s.failed.fsk = s.fsk := rfl
@[simp] theorem failed_chan : s.failed.chan = s.chan := rfl
@[simp] theorem failed_txq : s.failed.txq = s.txq := rfl
@[simp] theorem failed_v8 : s.failed.v8 = s.v8 := rfl
@[simp] theorem failed_pending : s.failed.pending = s.pending := rfl
@[simp] theorem failed_resp : s.failed.resp = ⟨some .fail, [], [], []⟩ := rfl

/-! ### `illegal` -/

@[simp] theorem illegal_srate : s.illegal.srate = s.srate := rfl
@[simp] theorem illegal_callState : s.illegal.callState = s.callState := rfl
@[simp] theorem illegal_dialTone : s.illegal.dialTone = s.dialTone := rfl
@[simp] theorem illegal_timerPend : s.illegal.timerPend = s.timerPend := rfl
@[simp] theorem illegal_gz : s.illegal.gz = s.gz := rfl
@[simp] theorem illegal_iq : s.illegal.iq = s.iq := rfl
@[simp] theorem illegal_codec : s.illegal.codec = s.codec := rfl
@[simp] theorem illegal_tone : s.illegal.tone = s.tone := rfl
@[simp] theorem illegal_det : s.illegal.det = s.det := rfl
@[simp] theorem illegal_fsk : s.illegal.fsk = s.fsk := rfl
@[simp] theorem illegal_chan : s.illegal.chan = s.chan := rfl
@[simp] theorem illegal_txq : s.illegal.txq = s.txq := rfl
@[simp] theorem illegal_v8 : s.illegal.v8 = s.v8 := rfl
@[simp] theorem illegal_pending : s.illegal.pending = s.pending := rfl
@[simp] theorem illegal_resp : s.illegal.resp = ⟨some .illegal, [], [], []⟩ := rfl

/-! ### `answered` -/

@[simp] theorem answered_srate (st : Status) (r y : List Word) (e : List Event) : (s.answered st r y e).srate = s.srate := rfl
@[simp] theorem answered_callState (st : Status) (r y : List Word) (e : List Event) : (s.answered st r y e).callState = s.callState := rfl
@[simp] theorem answered_dialTone (st : Status) (r y : List Word) (e : List Event) : (s.answered st r y e).dialTone = s.dialTone := rfl
@[simp] theorem answered_timerPend (st : Status) (r y : List Word) (e : List Event) : (s.answered st r y e).timerPend = s.timerPend := rfl
@[simp] theorem answered_gz (st : Status) (r y : List Word) (e : List Event) : (s.answered st r y e).gz = s.gz := rfl
@[simp] theorem answered_iq (st : Status) (r y : List Word) (e : List Event) : (s.answered st r y e).iq = s.iq := rfl
@[simp] theorem answered_codec (st : Status) (r y : List Word) (e : List Event) : (s.answered st r y e).codec = s.codec := rfl
@[simp] theorem answered_tone (st : Status) (r y : List Word) (e : List Event) : (s.answered st r y e).tone = s.tone := rfl
@[simp] theorem answered_det (st : Status) (r y : List Word) (e : List Event) : (s.answered st r y e).det = s.det := rfl
@[simp] theorem answered_fsk (st : Status) (r y : List Word) (e : List Event) : (s.answered st r y e).fsk = s.fsk := rfl
@[simp] theorem answered_chan (st : Status) (r y : List Word) (e : List Event) : (s.answered st r y e).chan = s.chan := rfl
@[simp] theorem answered_txq (st : Status) (r y : List Word) (e : List Event) : (s.answered st r y e).txq = s.txq := rfl
@[simp] theorem answered_v8 (st : Status) (r y : List Word) (e : List Event) : (s.answered st r y e).v8 = s.v8 := rfl
@[simp] theorem answered_pending (st : Status) (r y : List Word) (e : List Event) : (s.answered st r y e).pending = s.pending := rfl
@[simp] theorem answered_resp (st : Status) (r y : List Word) (e : List Event) : (s.answered st r y e).resp = ⟨some st, r, y, e⟩ := rfl

/-! ### `answeredOk` -/

@[simp] theorem answeredOk_srate (r y : List Word) (e : List Event) : (s.answeredOk r y e).srate = s.srate := rfl
@[simp] theorem answeredOk_callState (r y : List Word) (e : List Event) : (s.answeredOk r y e).callState = s.callState := rfl
@[simp] theorem answeredOk_dialTone (r y : List Word) (e : List Event) : (s.answeredOk r y e).dialTone = s.dialTone := rfl
@[simp] theorem answeredOk_timerPend (r y : List Word) (e : List Event) : (s.answeredOk r y e).timerPend = s.timerPend := rfl
@[simp] theorem answeredOk_gz (r y : List Word) (e : List Event) : (s.answeredOk r y e).gz = s.gz := rfl
@[simp] theorem answeredOk_iq (r y : List Word) (e : List Event) : (s.answeredOk r y e).iq = s.iq := rfl
@[simp] theorem answeredOk_codec (r y : List Word) (e : List Event) : (s.answeredOk r y e).codec = s.codec := rfl
@[simp] theorem answeredOk_tone (r y : List Word) (e : List Event) : (s.answeredOk r y e).tone = s.tone := rfl
@[simp] theorem answeredOk_det (r y : List Word) (e : List Event) : (s.answeredOk r y e).det = s.det := rfl
@[simp] theorem answeredOk_fsk (r y : List Word) (e : List Event) : (s.answeredOk r y e).fsk = s.fsk := rfl
@[simp] theorem answeredOk_chan (r y : List Word) (e : List Event) : (s.answeredOk r y e).chan = s.chan := rfl
@[simp] theorem answeredOk_txq (r y : List Word) (e : List Event) : (s.answeredOk r y e).txq = s.txq := rfl
@[simp] theorem answeredOk_v8 (r y : List Word) (e : List Event) : (s.answeredOk r y e).v8 = s.v8 := rfl
@[simp] theorem answeredOk_pending (r y : List Word) (e : List Event) : (s.answeredOk r y e).pending = s.pending := rfl
@[simp] theorem answeredOk_resp (r y : List Word) (e : List Event) : (s.answeredOk r y e).resp = ⟨some .ok, r, y, e⟩ := rfl

/-! ### `setGz` -/

@[simp] theorem setGz_srate (u : Nat) (g : Goertzel) : (s.setGz u g).srate = s.srate := rfl
@[simp] theorem setGz_callState (u : Nat) (g : Goertzel) : (s.setGz u g).callState = s.callState := rfl
@[simp] theorem setGz_dialTone (u : Nat) (g : Goertzel) : (s.setGz u g).dialTone = s.dialTone := rfl
@[simp] theorem setGz_timerPend (u : Nat) (g : Goertzel) : (s.setGz u g).timerPend = s.timerPend := rfl
@[simp] theorem setGz_gz (u : Nat) (g : Goertzel) : (s.setGz u g).gz = vset s.gz u g := rfl
@[simp] theorem setGz_iq (u : Nat) (g : Goertzel) : (s.setGz u g).iq = s.iq := rfl
@[simp] theorem setGz_codec (u : Nat) (g : Goertzel) : (s.setGz u g).codec = s.codec := rfl
@[simp] theorem setGz_tone (u : Nat) (g : Goertzel) : (s.setGz u g).tone = s.tone := rfl
@[simp] theorem setGz_det (u : Nat) (g : Goertzel) : (s.setGz u g).det = s.det := rfl
@[simp] theorem setGz_fsk (u : Nat) (g : Goertzel) : (s.setGz u g).fsk = s.fsk := rfl
@[simp] theorem setGz_chan (u : Nat) (g : Goertzel) : (s.setGz u g).chan = s.chan := rfl
@[simp] theorem setGz_txq (u : Nat) (g : Goertzel) : (s.setGz u g).txq = s.txq := rfl
@[simp] theorem setGz_v8 (u : Nat) (g : Goertzel) : (s.setGz u g).v8 = s.v8 := rfl
@[simp] theorem setGz_pending (u : Nat) (g : Goertzel) : (s.setGz u g).pending = s.pending := rfl
@[simp] theorem setGz_resp (u : Nat) (g : Goertzel) : (s.setGz u g).resp = s.resp := rfl

/-! ### `setIq` -/

@[simp] theorem setIq_srate (t : Nat) (x : IqTable) : (s.setIq t x).srate = s.srate := rfl
@[simp] theorem setIq_callState (t : Nat) (x : IqTable) : (s.setIq t x).callState = s.callState := rfl
@[simp] theorem setIq_dialTone (t : Nat) (x : IqTable) : (s.setIq t x).dialTone = s.dialTone := rfl
@[simp] theorem setIq_timerPend (t : Nat) (x : IqTable) : (s.setIq t x).timerPend = s.timerPend := rfl
@[simp] theorem setIq_gz (t : Nat) (x : IqTable) : (s.setIq t x).gz = s.gz := rfl
@[simp] theorem setIq_iq (t : Nat) (x : IqTable) : (s.setIq t x).iq = vset s.iq t x := rfl
@[simp] theorem setIq_codec (t : Nat) (x : IqTable) : (s.setIq t x).codec = s.codec := rfl
@[simp] theorem setIq_tone (t : Nat) (x : IqTable) : (s.setIq t x).tone = s.tone := rfl
@[simp] theorem setIq_det (t : Nat) (x : IqTable) : (s.setIq t x).det = s.det := rfl
@[simp] theorem setIq_fsk (t : Nat) (x : IqTable) : (s.setIq t x).fsk = s.fsk := rfl
@[simp] theorem setIq_chan (t : Nat) (x : IqTable) : (s.setIq t x).chan = s.chan := rfl
@[simp] theorem setIq_txq (t : Nat) (x : IqTable) : (s.setIq t x).txq = s.txq := rfl
@[simp] theorem setIq_v8 (t : Nat) (x : IqTable) : (s.setIq t x).v8 = s.v8 := rfl
@[simp] theorem setIq_pending (t : Nat) (x : IqTable) : (s.setIq t x).pending = s.pending := rfl
@[simp] theorem setIq_resp (t : Nat) (x : IqTable) : (s.setIq t x).resp = s.resp := rfl

/-! ### `setCodec` -/

@[simp] theorem setCodec_srate (k : Nat) (c : Codec) : (s.setCodec k c).srate = s.srate := rfl
@[simp] theorem setCodec_callState (k : Nat) (c : Codec) : (s.setCodec k c).callState = s.callState := rfl
@[simp] theorem setCodec_dialTone (k : Nat) (c : Codec) : (s.setCodec k c).dialTone = s.dialTone := rfl
@[simp] theorem setCodec_timerPend (k : Nat) (c : Codec) : (s.setCodec k c).timerPend = s.timerPend := rfl
@[simp] theorem setCodec_gz (k : Nat) (c : Codec) : (s.setCodec k c).gz = s.gz := rfl
@[simp] theorem setCodec_iq (k : Nat) (c : Codec) : (s.setCodec k c).iq = s.iq := rfl
@[simp] theorem setCodec_codec (k : Nat) (c : Codec) : (s.setCodec k c).codec = vset s.codec k c := rfl
@[simp] theorem setCodec_tone (k : Nat) (c : Codec) : (s.setCodec k c).tone = s.tone := rfl
@[simp] theorem setCodec_det (k : Nat) (c : Codec) : (s.setCodec k c).det = s.det := rfl
@[simp] theorem setCodec_fsk (k : Nat) (c : Codec) : (s.setCodec k c).fsk = s.fsk := rfl
@[simp] theorem setCodec_chan (k : Nat) (c : Codec) : (s.setCodec k c).chan = s.chan := rfl
@[simp] theorem setCodec_txq (k : Nat) (c : Codec) : (s.setCodec k c).txq = s.txq := rfl
@[simp] theorem setCodec_v8 (k : Nat) (c : Codec) : (s.setCodec k c).v8 = s.v8 := rfl
@[simp] theorem setCodec_pending (k : Nat) (c : Codec) : (s.setCodec k c).pending = s.pending := rfl
@[simp] theorem setCodec_resp (k : Nat) (c : Codec) : (s.setCodec k c).resp = s.resp := rfl

/-! ### `setChan` -/

@[simp] theorem setChan_srate (c : Nat) (x : FskChannel) : (s.setChan c x).srate = s.srate := rfl
@[simp] theorem setChan_callState (c : Nat) (x : FskChannel) : (s.setChan c x).callState = s.callState := rfl
@[simp] theorem setChan_dialTone (c : Nat) (x : FskChannel) : (s.setChan c x).dialTone = s.dialTone := rfl
@[simp] theorem setChan_timerPend (c : Nat) (x : FskChannel) : (s.setChan c x).timerPend = s.timerPend := rfl
@[simp] theorem setChan_gz (c : Nat) (x : FskChannel) : (s.setChan c x).gz = s.gz := rfl
@[simp] theorem setChan_iq (c : Nat) (x : FskChannel) : (s.setChan c x).iq = s.iq := rfl
@[simp] theorem setChan_codec (c : Nat) (x : FskChannel) : (s.setChan c x).codec = s.codec := rfl
@[simp] theorem setChan_tone (c : Nat) (x : FskChannel) : (s.setChan c x).tone = s.tone := rfl
@[simp] theorem setChan_det (c : Nat) (x : FskChannel) : (s.setChan c x).det = s.det := rfl
@[simp] theorem setChan_fsk (c : Nat) (x : FskChannel) : (s.setChan c x).fsk = s.fsk := rfl
@[simp] theorem setChan_chan (c : Nat) (x : FskChannel) : (s.setChan c x).chan = vset s.chan c x := rfl
@[simp] theorem setChan_txq (c : Nat) (x : FskChannel) : (s.setChan c x).txq = s.txq := rfl
@[simp] theorem setChan_v8 (c : Nat) (x : FskChannel) : (s.setChan c x).v8 = s.v8 := rfl
@[simp] theorem setChan_pending (c : Nat) (x : FskChannel) : (s.setChan c x).pending = s.pending := rfl
@[simp] theorem setChan_resp (c : Nat) (x : FskChannel) : (s.setChan c x).resp = s.resp := rfl

/-! ### `clearTimer` -/

@[simp] theorem clearTimer_srate (w : Timer) : (s.clearTimer w).srate = s.srate := rfl
@[simp] theorem clearTimer_callState (w : Timer) : (s.clearTimer w).callState = s.callState := rfl
@[simp] theorem clearTimer_dialTone (w : Timer) : (s.clearTimer w).dialTone = s.dialTone := rfl
@[simp] theorem clearTimer_timerPend (w : Timer) : (s.clearTimer w).timerPend = s.timerPend &&& ~~~ timerBit w := rfl
@[simp] theorem clearTimer_gz (w : Timer) : (s.clearTimer w).gz = s.gz := rfl
@[simp] theorem clearTimer_iq (w : Timer) : (s.clearTimer w).iq = s.iq := rfl
@[simp] theorem clearTimer_codec (w : Timer) : (s.clearTimer w).codec = s.codec := rfl
@[simp] theorem clearTimer_tone (w : Timer) : (s.clearTimer w).tone = s.tone := rfl
@[simp] theorem clearTimer_det (w : Timer) : (s.clearTimer w).det = s.det := rfl
@[simp] theorem clearTimer_fsk (w : Timer) : (s.clearTimer w).fsk = s.fsk := rfl
@[simp] theorem clearTimer_chan (w : Timer) : (s.clearTimer w).chan = s.chan := rfl
@[simp] theorem clearTimer_txq (w : Timer) : (s.clearTimer w).txq = s.txq := rfl
@[simp] theorem clearTimer_v8 (w : Timer) : (s.clearTimer w).v8 = s.v8 := rfl
@[simp] theorem clearTimer_pending (w : Timer) : (s.clearTimer w).pending = s.pending := rfl
@[simp] theorem clearTimer_resp (w : Timer) : (s.clearTimer w).resp = s.resp := rfl

/-! ### `requestTimer` -/

@[simp] theorem requestTimer_srate (w : Timer) : (requestTimer w s).srate = s.srate := rfl
@[simp] theorem requestTimer_callState (w : Timer) : (requestTimer w s).callState = s.callState := rfl
@[simp] theorem requestTimer_dialTone (w : Timer) : (requestTimer w s).dialTone = s.dialTone := rfl
@[simp] theorem requestTimer_timerPend (w : Timer) : (requestTimer w s).timerPend = s.timerPend ||| timerBit w := rfl
@[simp] theorem requestTimer_gz (w : Timer) : (requestTimer w s).gz = s.gz := rfl
@[simp] theorem requestTimer_iq (w : Timer) : (requestTimer w s).iq = s.iq := rfl
@[simp] theorem requestTimer_codec (w : Timer) : (requestTimer w s).codec = s.codec := rfl
@[simp] theorem requestTimer_tone (w : Timer) : (requestTimer w s).tone = s.tone := rfl
@[simp] theorem requestTimer_det (w : Timer) : (requestTimer w s).det = s.det := rfl
@[simp] theorem requestTimer_fsk (w : Timer) : (requestTimer w s).fsk = s.fsk := rfl
@[simp] theorem requestTimer_chan (w : Timer) : (requestTimer w s).chan = s.chan := rfl
@[simp] theorem requestTimer_txq (w : Timer) : (requestTimer w s).txq = s.txq := rfl
@[simp] theorem requestTimer_v8 (w : Timer) : (requestTimer w s).v8 = s.v8 := rfl
@[simp] theorem requestTimer_pending (w : Timer) : (requestTimer w s).pending = s.pending := rfl
@[simp] theorem requestTimer_resp (w : Timer) : (requestTimer w s).resp = { s.resp with events := s.resp.events ++ [.timerReq w] } := rfl

/-! ### `txqClear` -/

@[simp] theorem txqClear_srate : (txqClear s).srate = s.srate := rfl
@[simp] theorem txqClear_callState : (txqClear s).callState = s.callState := rfl
@[simp] theorem txqClear_dialTone : (txqClear s).dialTone = s.dialTone := rfl
@[simp] theorem txqClear_timerPend : (txqClear s).timerPend = s.timerPend := rfl
@[simp] theorem txqClear_gz : (txqClear s).gz = s.gz := rfl
@[simp] theorem txqClear_iq : (txqClear s).iq = s.iq := rfl
@[simp] theorem txqClear_codec : (txqClear s).codec = s.codec := rfl
@[simp] theorem txqClear_tone : (txqClear s).tone = s.tone := rfl
@[simp] theorem txqClear_det : (txqClear s).det = s.det := rfl
@[simp] theorem txqClear_fsk : (txqClear s).fsk = s.fsk := rfl
@[simp] theorem txqClear_chan : (txqClear s).chan = s.chan := rfl
@[simp] theorem txqClear_txq : (txqClear s).txq = { s.txq with head := 0#6, count := 0#7 } := rfl
@[simp] theorem txqClear_v8 : (txqClear s).v8 = s.v8 := rfl
@[simp] theorem txqClear_pending : (txqClear s).pending = s.pending := rfl
@[simp] theorem txqClear_resp : (txqClear s).resp = s.resp := rfl

/-! ### `resetBlock` -/

@[simp] theorem resetBlock_srate : (resetBlock s).srate = State.reset.srate := rfl
@[simp] theorem resetBlock_callState : (resetBlock s).callState = State.reset.callState := rfl
@[simp] theorem resetBlock_dialTone : (resetBlock s).dialTone = State.reset.dialTone := rfl
@[simp] theorem resetBlock_timerPend : (resetBlock s).timerPend = State.reset.timerPend := rfl
@[simp] theorem resetBlock_gz : (resetBlock s).gz = State.reset.gz := rfl
@[simp] theorem resetBlock_iq : (resetBlock s).iq = State.reset.iq := rfl
@[simp] theorem resetBlock_codec : (resetBlock s).codec = State.reset.codec := rfl
@[simp] theorem resetBlock_tone : (resetBlock s).tone = State.reset.tone := rfl
@[simp] theorem resetBlock_det : (resetBlock s).det = State.reset.det := rfl
@[simp] theorem resetBlock_fsk : (resetBlock s).fsk = State.reset.fsk := rfl
@[simp] theorem resetBlock_chan : (resetBlock s).chan = State.reset.chan := rfl
@[simp] theorem resetBlock_txq : (resetBlock s).txq = State.reset.txq := rfl
@[simp] theorem resetBlock_v8 : (resetBlock s).v8 = State.reset.v8 := rfl
@[simp] theorem resetBlock_pending : (resetBlock s).pending = s.pending := rfl
@[simp] theorem resetBlock_resp : (resetBlock s).resp = s.resp := rfl

/-! ### `toneStop` -/

@[simp] theorem toneStop_srate : (toneStop s).srate = s.srate := rfl
@[simp] theorem toneStop_callState : (toneStop s).callState = s.callState := rfl
@[simp] theorem toneStop_dialTone : (toneStop s).dialTone = s.dialTone := rfl
@[simp] theorem toneStop_timerPend : (toneStop s).timerPend = s.timerPend := rfl
@[simp] theorem toneStop_gz : (toneStop s).gz = s.gz := rfl
@[simp] theorem toneStop_iq : (toneStop s).iq = s.iq := rfl
@[simp] theorem toneStop_codec : (toneStop s).codec = s.codec := rfl
@[simp] theorem toneStop_tone : (toneStop s).tone = ToneTx.reset := rfl
@[simp] theorem toneStop_det : (toneStop s).det = s.det := rfl
@[simp] theorem toneStop_fsk : (toneStop s).fsk = s.fsk := rfl
@[simp] theorem toneStop_chan : (toneStop s).chan = s.chan := rfl
@[simp] theorem toneStop_txq : (toneStop s).txq = s.txq := rfl
@[simp] theorem toneStop_v8 : (toneStop s).v8 = s.v8 := rfl
@[simp] theorem toneStop_pending : (toneStop s).pending = s.pending := rfl
@[simp] theorem toneStop_resp : (toneStop s).resp = s.resp := rfl

/-! ### `detOff` -/

@[simp] theorem detOff_srate : (detOff s).srate = s.srate := rfl
@[simp] theorem detOff_callState : (detOff s).callState = s.callState := rfl
@[simp] theorem detOff_dialTone : (detOff s).dialTone = s.dialTone := rfl
@[simp] theorem detOff_timerPend : (detOff s).timerPend = s.timerPend := rfl
@[simp] theorem detOff_gz : (detOff s).gz = s.gz := rfl
@[simp] theorem detOff_iq : (detOff s).iq = s.iq := rfl
@[simp] theorem detOff_codec : (detOff s).codec = s.codec := rfl
@[simp] theorem detOff_tone : (detOff s).tone = s.tone := rfl
@[simp] theorem detOff_det : (detOff s).det = Detector.reset := rfl
@[simp] theorem detOff_fsk : (detOff s).fsk = s.fsk := rfl
@[simp] theorem detOff_chan : (detOff s).chan = s.chan := rfl
@[simp] theorem detOff_txq : (detOff s).txq = s.txq := rfl
@[simp] theorem detOff_v8 : (detOff s).v8 = s.v8 := rfl
@[simp] theorem detOff_pending : (detOff s).pending = s.pending := rfl
@[simp] theorem detOff_resp : (detOff s).resp = s.resp := rfl

/-! ### `toneLoad` -/

@[simp] theorem toneLoad_srate (id : Byte) (total gain : Word) (so : BitVec 16) : (toneLoad id total gain so s).srate = s.srate := rfl
@[simp] theorem toneLoad_callState (id : Byte) (total gain : Word) (so : BitVec 16) : (toneLoad id total gain so s).callState = s.callState := rfl
@[simp] theorem toneLoad_dialTone (id : Byte) (total gain : Word) (so : BitVec 16) : (toneLoad id total gain so s).dialTone = s.dialTone := rfl
@[simp] theorem toneLoad_timerPend (id : Byte) (total gain : Word) (so : BitVec 16) : (toneLoad id total gain so s).timerPend = s.timerPend := rfl
@[simp] theorem toneLoad_gz (id : Byte) (total gain : Word) (so : BitVec 16) : (toneLoad id total gain so s).gz = s.gz := rfl
@[simp] theorem toneLoad_iq (id : Byte) (total gain : Word) (so : BitVec 16) : (toneLoad id total gain so s).iq = s.iq := rfl
@[simp] theorem toneLoad_codec (id : Byte) (total gain : Word) (so : BitVec 16) : (toneLoad id total gain so s).codec = s.codec := rfl
@[simp] theorem toneLoad_tone (id : Byte) (total gain : Word) (so : BitVec 16) : (toneLoad id total gain so s).tone = toneLoadRegs s.srate id total gain so := rfl
@[simp] theorem toneLoad_det (id : Byte) (total gain : Word) (so : BitVec 16) : (toneLoad id total gain so s).det = s.det := rfl
@[simp] theorem toneLoad_fsk (id : Byte) (total gain : Word) (so : BitVec 16) : (toneLoad id total gain so s).fsk = s.fsk := rfl
@[simp] theorem toneLoad_chan (id : Byte) (total gain : Word) (so : BitVec 16) : (toneLoad id total gain so s).chan = s.chan := rfl
@[simp] theorem toneLoad_txq (id : Byte) (total gain : Word) (so : BitVec 16) : (toneLoad id total gain so s).txq = s.txq := rfl
@[simp] theorem toneLoad_v8 (id : Byte) (total gain : Word) (so : BitVec 16) : (toneLoad id total gain so s).v8 = s.v8 := rfl
@[simp] theorem toneLoad_pending (id : Byte) (total gain : Word) (so : BitVec 16) : (toneLoad id total gain so s).pending = s.pending := rfl
@[simp] theorem toneLoad_resp (id : Byte) (total gain : Word) (so : BitVec 16) : (toneLoad id total gain so s).resp = s.resp := rfl

/-! ### `fskSetDirections` -/

@[simp] theorem fskSetDirections_srate (tx rx : BitVec 1) (en : Bool) : (fskSetDirections tx rx en s).srate = s.srate := rfl
@[simp] theorem fskSetDirections_callState (tx rx : BitVec 1) (en : Bool) : (fskSetDirections tx rx en s).callState = s.callState := rfl
@[simp] theorem fskSetDirections_dialTone (tx rx : BitVec 1) (en : Bool) : (fskSetDirections tx rx en s).dialTone = s.dialTone := rfl
@[simp] theorem fskSetDirections_timerPend (tx rx : BitVec 1) (en : Bool) : (fskSetDirections tx rx en s).timerPend = s.timerPend := rfl
@[simp] theorem fskSetDirections_gz (tx rx : BitVec 1) (en : Bool) : (fskSetDirections tx rx en s).gz = s.gz := rfl
@[simp] theorem fskSetDirections_iq (tx rx : BitVec 1) (en : Bool) : (fskSetDirections tx rx en s).iq = s.iq := rfl
@[simp] theorem fskSetDirections_codec (tx rx : BitVec 1) (en : Bool) : (fskSetDirections tx rx en s).codec = s.codec := rfl
@[simp] theorem fskSetDirections_tone (tx rx : BitVec 1) (en : Bool) : (fskSetDirections tx rx en s).tone = s.tone := rfl
@[simp] theorem fskSetDirections_det (tx rx : BitVec 1) (en : Bool) : (fskSetDirections tx rx en s).det = s.det := rfl
@[simp] theorem fskSetDirections_fsk (tx rx : BitVec 1) (en : Bool) : (fskSetDirections tx rx en s).fsk = { s.fsk with txch := tx, rxch := rx, txen := en } := rfl
@[simp] theorem fskSetDirections_chan (tx rx : BitVec 1) (en : Bool) : (fskSetDirections tx rx en s).chan = s.chan := rfl
@[simp] theorem fskSetDirections_txq (tx rx : BitVec 1) (en : Bool) : (fskSetDirections tx rx en s).txq = s.txq := rfl
@[simp] theorem fskSetDirections_v8 (tx rx : BitVec 1) (en : Bool) : (fskSetDirections tx rx en s).v8 = s.v8 := rfl
@[simp] theorem fskSetDirections_pending (tx rx : BitVec 1) (en : Bool) : (fskSetDirections tx rx en s).pending = s.pending := rfl
@[simp] theorem fskSetDirections_resp (tx rx : BitVec 1) (en : Bool) : (fskSetDirections tx rx en s).resp = s.resp := rfl

/-! ### `menuEncode` -/

@[simp] theorem menuEncode_srate (items : List Byte) : (menuEncode items s).srate = s.srate := rfl
@[simp] theorem menuEncode_callState (items : List Byte) : (menuEncode items s).callState = s.callState := rfl
@[simp] theorem menuEncode_dialTone (items : List Byte) : (menuEncode items s).dialTone = s.dialTone := rfl
@[simp] theorem menuEncode_timerPend (items : List Byte) : (menuEncode items s).timerPend = s.timerPend := rfl
@[simp] theorem menuEncode_gz (items : List Byte) : (menuEncode items s).gz = s.gz := rfl
@[simp] theorem menuEncode_iq (items : List Byte) : (menuEncode items s).iq = s.iq := rfl
@[simp] theorem menuEncode_codec (items : List Byte) : (menuEncode items s).codec = s.codec := rfl
@[simp] theorem menuEncode_tone (items : List Byte) : (menuEncode items s).tone = s.tone := rfl
@[simp] theorem menuEncode_det (items : List Byte) : (menuEncode items s).det = s.det := rfl
@[simp] theorem menuEncode_fsk (items : List Byte) : (menuEncode items s).fsk = s.fsk := rfl
@[simp] theorem menuEncode_chan (items : List Byte) : (menuEncode items s).chan = s.chan := rfl
@[simp] theorem menuEncode_txq (items : List Byte) : (menuEncode items s).txq = s.txq := rfl
@[simp] theorem menuEncode_v8 (items : List Byte) : (menuEncode items s).v8 = { s.v8 with out := ramFill s.v8.out 0 (menuOctets items), outlen := BitVec.ofNat 5 (menuOctets items).length } := rfl
@[simp] theorem menuEncode_pending (items : List Byte) : (menuEncode items s).pending = s.pending := rfl
@[simp] theorem menuEncode_resp (items : List Byte) : (menuEncode items s).resp = s.resp := rfl

/-! ### Answers absorb one another -/

@[simp] theorem begin_begin : s.begin.begin = s.begin := rfl

theorem failed_eq : s.failed = s.answered .fail [] [] [] := rfl

theorem illegal_eq : s.illegal = s.answered .illegal [] [] [] := rfl

theorem ok_eq (r y : List Word) : s.ok r y = s.answeredOk r y s.resp.events := rfl

@[simp] theorem begin_ok (r y : List Word) : s.begin.ok r y = s.answeredOk r y [] := rfl

@[simp] theorem begin_failed : s.begin.failed = s.failed := rfl

@[simp] theorem answered_answered (st st' : Status) (r y r' y' : List Word) (e e' : List Event) :
    (s.answered st r y e).answered st' r' y' e' = s.answered st' r' y' e' := rfl

@[simp] theorem answeredOk_answeredOk (r y r' y' : List Word) (e e' : List Event) :
    (s.answeredOk r y e).answeredOk r' y' e' = s.answeredOk r' y' e' := rfl

@[simp] theorem answeredOk_begin (r y : List Word) (e : List Event) : (s.answeredOk r y e).begin = s.begin := rfl

@[simp] theorem begin_answeredOk (r y : List Word) (e : List Event) : s.begin.answeredOk r y e = s.answeredOk r y e := rfl

theorem answerOk_begin (r y : List Word) : answerOk s.begin r y = .next (s.answeredOk r y []) := rfl

theorem answerFail_eq : answerFail s = .next (s.answered .fail [] [] []) := rfl

/-! ### What a scheme selection writes, taken over from another state -/

@[simp] theorem withFskOf_fsk (d : State) : (s.withFskOf d).fsk = d.fsk := rfl
@[simp] theorem withFskOf_iq (d : State) : (s.withFskOf d).iq = d.iq := rfl
@[simp] theorem withFskOf_chan (d : State) : (s.withFskOf d).chan = d.chan := rfl
@[simp] theorem withFskOf_codec (d : State) : (s.withFskOf d).codec = d.codec := rfl
@[simp] theorem withFskOf_txq (d : State) : (s.withFskOf d).txq = d.txq := rfl
@[simp] theorem withFskOf_srate (d : State) : (s.withFskOf d).srate = s.srate := rfl
@[simp] theorem withFskOf_callState (d : State) : (s.withFskOf d).callState = s.callState := rfl
@[simp] theorem withFskOf_dialTone (d : State) : (s.withFskOf d).dialTone = s.dialTone := rfl
@[simp] theorem withFskOf_timerPend (d : State) : (s.withFskOf d).timerPend = s.timerPend := rfl
@[simp] theorem withFskOf_gz (d : State) : (s.withFskOf d).gz = s.gz := rfl
@[simp] theorem withFskOf_tone (d : State) : (s.withFskOf d).tone = s.tone := rfl
@[simp] theorem withFskOf_det (d : State) : (s.withFskOf d).det = s.det := rfl
@[simp] theorem withFskOf_v8 (d : State) : (s.withFskOf d).v8 = s.v8 := rfl
@[simp] theorem withFskOf_pending (d : State) : (s.withFskOf d).pending = s.pending := rfl
@[simp] theorem withFskOf_resp (d : State) : (s.withFskOf d).resp = s.resp := rfl

/-! ### Registers inside a unit -/

@[simp] theorem goertzel_clear_coeff (g : Goertzel) : g.clear.coeff = g.coeff := rfl
@[simp] theorem goertzel_clear_n (g : Goertzel) : g.clear.n = g.n := rfl
@[simp] theorem goertzel_clear_cnt (g : Goertzel) : g.clear.cnt = 0#16 := rfl
@[simp] theorem goertzel_clear_s1 (g : Goertzel) : g.clear.s1 = 0#64 := rfl
@[simp] theorem goertzel_clear_s2 (g : Goertzel) : g.clear.s2 = 0#64 := rfl
@[simp] theorem goertzel_step_coeff (g : Goertzel) (x : Int) : (g.step x).coeff = g.coeff := rfl
@[simp] theorem goertzel_step_n (g : Goertzel) (x : Int) : (g.step x).n = g.n := rfl
@[simp] theorem goertzel_step_cnt (g : Goertzel) (x : Int) : (g.step x).cnt = g.cnt + 1#16 := rfl
@[simp] theorem goertzel_step_s2 (g : Goertzel) (x : Int) : (g.step x).s2 = g.s1 := rfl
@[simp] theorem codec_clear_order (c : Codec) : c.clear.order = c.order := rfl
@[simp] theorem codec_clear_bn (c : Codec) : c.clear.bn = 0#4 := rfl
@[simp] theorem codec_clear_pst (c : Codec) : c.clear.pst = .idle := rfl

end Sys2Proof.Laws
end

