-- ==== Sys2Proof/Laws/Vec.lean ====
section
/-! SUPPORT. The laws of register arrays: what an element reads as after a write, and the same elements and writes with an index
that is in range by its type. -/

namespace Sys2Proof.Laws

open Sys2Proof.Machine

variable {α : Type} {n : Nat}

theorem vget_eq (v : Vector α n) (d : α) {i : Nat} (h : i < n) : vget v d i = v[i] := by
  simp [vget, h]

theorem vget_fin (v : Vector α n) (d : α) (i : Fin n) : vget v d i.val = v[i] := vget_eq v d i.isLt

theorem vget_out (v : Vector α n) (d : α) {i : Nat} (h : n ≤ i) : vget v d i = d := by
  simp [vget, Nat.not_lt.mpr h]

theorem vset_eq (v : Vector α n) {i : Nat} (h : i < n) (x : α) : vset v i x = v.set i x h := by
  ext j hj
  simp [vset, Vector.getElem_set, Vector.getElem_setIfInBounds]

theorem vset_fin (v : Vector α n) (i : Fin n) (x : α) : vset v i.val x = v.set i.val x i.isLt := vset_eq v i.isLt x

theorem vset_out (v : Vector α n) {i : Nat} (h : n ≤ i) (x : α) : vset v i x = v := by
  ext j hj
  have : i ≠ j := by omega
  simp [vset, this]

/-- Reading the element just written. -/
@[simp] theorem vget_vset_same (v : Vector α n) (d x : α) {i : Nat} (h : i < n) : vget (vset v i x) d i = x := by
  simp [vget, vset, h]

/-- Reading another element. -/
@[simp] theorem vget_vset_ne (v : Vector α n) (d x : α) {i j : Nat} (h : i ≠ j) : vget (vset v i x) d j = vget v d j := by
  simp [vget, vset, h]

/-- Reading any element after a write. -/
theorem vget_vset (v : Vector α n) (d x : α) (i j : Nat) :
    vget (vset v i x) d j = if i = j ∧ i < n then x else vget v d j := by
  by_cases e : i = j
  · subst e
    by_cases h : i < n
    · simp [h]
    · simp [h, vset_out v (Nat.le_of_not_lt h)]
  · simp [e]

@[simp] theorem vset_vset (v : Vector α n) (i : Nat) (x y : α) : vset (vset v i x) i y = vset v i y := by
  ext j hj
  simp only [vset, Vector.getElem_setIfInBounds]
  split <;> rfl

/-- Writing back the element that is there changes nothing. -/
theorem vset_vget (v : Vector α n) (d : α) (i : Nat) : vset v i (vget v d i) = v := by
  by_cases h : i < n
  · ext j hj
    by_cases e : i = j
    · subst e; simp [vset, vget, h]
    · simp [vset, e]
  · exact vset_out v (Nat.le_of_not_lt h) _

theorem vecOf_get (f : Nat → α) {i : Nat} (h : i < n) : (vecOf n f)[i] = f i := by
  simp [vecOf]

@[simp] theorem vget_vecOf (f : Nat → α) (d : α) {i : Nat} (h : i < n) : vget (vecOf n f) d i = f i := by
  rw [vget_eq _ _ h, vecOf_get]

@[simp] theorem vget_replicate (x d : α) {i : Nat} (h : i < n) : vget (Vector.replicate n x) d i = x := by
  simp [vget, h]

/-! ### The arrays of `State` -/

variable (s : State)

theorem gzAt_fin (u : Fin 16) : s.gzAt u.val = s.gz[u] := vget_fin s.gz _ u

theorem iqAt_fin (t : Fin 4) : s.iqAt t.val = s.iq[t] := vget_fin s.iq _ t

theorem codecAt_fin (k : Fin 3) : s.codecAt k.val = s.codec[k] := vget_fin s.codec _ k

theorem chanAt_fin (c : Fin 2) : s.chanAt c.val = s.chan[c] := vget_fin s.chan _ c

theorem setGz_fin (u : Fin 16) (g : Goertzel) : s.setGz u.val g = { s with gz := s.gz.set u.val g u.isLt } := by
  simp only [State.setGz, vset_fin]

theorem setIq_fin (t : Fin 4) (x : IqTable) : s.setIq t.val x = { s with iq := s.iq.set t.val x t.isLt } := by
  simp only [State.setIq, vset_fin]

theorem setCodec_fin (k : Fin 3) (c : Codec) : s.setCodec k.val c = { s with codec := s.codec.set k.val c k.isLt } := by
  simp only [State.setCodec, vset_fin]

theorem setChan_fin (c : Fin 2) (x : FskChannel) : s.setChan c.val x = { s with chan := s.chan.set c.val x c.isLt } := by
  simp only [State.setChan, vset_fin]

theorem gzAt_setGz (i j : Nat) (g : Goertzel) : (s.setGz i g).gzAt j = if i = j ∧ i < 16 then g else s.gzAt j :=
  vget_vset s.gz _ g i j

theorem iqAt_setIq (i j : Nat) (x : IqTable) : (s.setIq i x).iqAt j = if i = j ∧ i < 4 then x else s.iqAt j :=
  vget_vset s.iq _ x i j

theorem codecAt_setCodec (i j : Nat) (c : Codec) :
    (s.setCodec i c).codecAt j = if i = j ∧ i < 3 then c else s.codecAt j :=
  vget_vset s.codec _ c i j

theorem chanAt_setChan (i j : Nat) (x : FskChannel) :
    (s.setChan i x).chanAt j = if i = j ∧ i < 2 then x else s.chanAt j :=
  vget_vset s.chan _ x i j

theorem setGz_gzAt (u : Nat) : s.setGz u (s.gzAt u) = s := by
  simp only [State.setGz, State.gzAt, vset_vget]

theorem setIq_iqAt (t : Nat) : s.setIq t (s.iqAt t) = s := by
  simp only [State.setIq, State.iqAt, vset_vget]

theorem setCodec_codecAt (k : Nat) : s.setCodec k (s.codecAt k) = s := by
  simp only [State.setCodec, State.codecAt, vset_vget]

theorem setChan_chanAt (c : Nat) : s.setChan c (s.chanAt c) = s := by
  simp only [State.setChan, State.chanAt, vset_vget]

@[simp] theorem setGz_setGz (u : Nat) (g h : Goertzel) : (s.setGz u g).setGz u h = s.setGz u h := by
  simp only [State.setGz, vset_vset]

@[simp] theorem setIq_setIq (t : Nat) (x y : IqTable) : (s.setIq t x).setIq t y = s.setIq t y := by
  simp only [State.setIq, vset_vset]

@[simp] theorem setCodec_setCodec (k : Nat) (c d : Codec) : (s.setCodec k c).setCodec k d = s.setCodec k d := by
  simp only [State.setCodec, vset_vset]

@[simp] theorem setChan_setChan (c : Nat) (x y : FskChannel) : (s.setChan c x).setChan c y = s.setChan c y := by
  simp only [State.setChan, vset_vset]

end Sys2Proof.Laws
end

