-- ==== Sys2Proof/Laws/Ops.lean ====
section
/-! SUPPORT. What the shared operations do, said once: for each, the cases it has, or the parts of the state it keeps. -/

namespace Sys2Proof.Laws

open Sys2Proof.Machine

/-! ### Folds and blocks -/

/-- A part of the state that every step of a fold keeps, the fold keeps. -/
theorem foldl_keeps {α β : Type} (g : State → β) (f : State → α → State) (h : ∀ s a, g (f s a) = g s) (l : List α) (s : State) :
    g (l.foldl f s) = g s := by
  induction l generalizing s with
  | nil => rfl
  | cons a l ih => rw [List.foldl_cons, ih, h]

/-- A property that every step of a fold keeps, the fold keeps. -/
theorem foldl_inv {α : Type} (p : State → Prop) (f : State → α → State) (h : ∀ s a, p s → p (f s a)) (l : List α) (s : State)
    (hs : p s) : p (l.foldl f s) := by
  induction l generalizing s with
  | nil => exact hs
  | cons a l ih => exact ih _ (h s a hs)

/-- A block has as many samples as were asked for. -/
@[simp] theorem synth_length (f : State → State × Word) (n : Nat) (s : State) : (synth f n s).2.length = n := by
  induction n generalizing s with
  | zero => rfl
  | succ n ih => simp [synth, ih]

/-- A block in two parts. -/
theorem synth_add (f : State → State × Word) (m n : Nat) (s : State) :
    synth f (m + n) s = ((synth f n (synth f m s).1).1, (synth f m s).2 ++ (synth f n (synth f m s).1).2) := by
  induction m generalizing s with
  | zero => simp [synth]
  | succ m ih =>
    rw [Nat.succ_add]
    simp only [synth, ih, List.cons_append]

/-- A source that keeps the state gives the same sample every time. -/
theorem synth_idle {f : State → State × Word} {s : State} {y : Word} (h : f s = (s, y)) (n : Nat) :
    synth f n s = (s, List.replicate n y) := by
  induction n with
  | zero => rfl
  | succ n ih => simp [synth, h, ih, List.replicate_succ]

/-- A part of the state that one sample keeps, a block keeps. -/
theorem synth_keeps {β : Type} (g : State → β) (f : State → State × Word) (h : ∀ s, g (f s).1 = g s) (n : Nat) (s : State) :
    g (synth f n s).1 = g s := by
  induction n generalizing s with
  | zero => rfl
  | succ n ih => simp only [synth]; rw [ih, h]

/-- A property that one sample keeps, a block keeps. -/
theorem synth_inv (p : State → Prop) (f : State → State × Word) (h : ∀ s, p s → p (f s).1) (n : Nat) (s : State) (hs : p s) :
    p (synth f n s).1 := by
  induction n generalizing s with
  | zero => exact hs
  | succ n ih => exact ih _ (h s hs)

variable (s : State)

/-! ### The transmit byte queue -/

/-- `txq_put` is refused exactly when the queue is full. -/
theorem txqPut_eq_none (b : Byte) : txqPut b s = none ↔ s.txq.count.toNat = 64 := by
  unfold txqPut
  split <;> simp_all

/-- All that `txq_put` does when it accepts a byte. -/
theorem txqPut_eq_some (b : Byte) (t : State) :
    txqPut b s = some t ↔ s.txq.count.toNat ≠ 64 ∧ t = { s with txq :=
      { s.txq with mem := ramWrite s.txq.mem ((s.txq.head.toNat + s.txq.count.toNat) % 64) b, count := s.txq.count + 1#7 } } := by
  unfold txqPut
  split
  · rename_i h
    simp only [reduceCtorEq, false_iff, not_and]
    exact fun hn => absurd h hn
  · rename_i h
    simp only [Option.some.injEq]
    exact ⟨fun e => ⟨h, e.symm⟩, fun e => e.2.symm⟩

/-- Taking a byte keeps everything but the queue. -/
@[simp] theorem txqTake_keeps :
    (txqTake s).1.srate = s.srate ∧ (txqTake s).1.callState = s.callState ∧ (txqTake s).1.dialTone = s.dialTone ∧
    (txqTake s).1.timerPend = s.timerPend ∧ (txqTake s).1.gz = s.gz ∧ (txqTake s).1.iq = s.iq ∧
    (txqTake s).1.codec = s.codec ∧ (txqTake s).1.tone = s.tone ∧ (txqTake s).1.det = s.det ∧
    (txqTake s).1.fsk = s.fsk ∧ (txqTake s).1.chan = s.chan ∧ (txqTake s).1.v8 = s.v8 ∧
    (txqTake s).1.pending = s.pending ∧ (txqTake s).1.resp = s.resp := by
  simp [txqTake]

/-- Offering a byte keeps everything but the queue. -/
@[simp] theorem txqOffer_keeps (b : Byte) :
    (txqOffer s b).srate = s.srate ∧ (txqOffer s b).callState = s.callState ∧ (txqOffer s b).dialTone = s.dialTone ∧
    (txqOffer s b).timerPend = s.timerPend ∧ (txqOffer s b).gz = s.gz ∧ (txqOffer s b).iq = s.iq ∧
    (txqOffer s b).codec = s.codec ∧ (txqOffer s b).tone = s.tone ∧ (txqOffer s b).det = s.det ∧
    (txqOffer s b).fsk = s.fsk ∧ (txqOffer s b).chan = s.chan ∧ (txqOffer s b).v8 = s.v8 ∧
    (txqOffer s b).pending = s.pending ∧ (txqOffer s b).resp = s.resp := by
  unfold txqOffer txqPut
  split <;> simp

/-! ### Goertzel units and I/Q tables -/

/-- Setting a unit up keeps everything but the bank. -/
@[simp] theorem gzInit_keeps (u f n : Nat) :
    (gzInit u f n s).srate = s.srate ∧ (gzInit u f n s).callState = s.callState ∧
    (gzInit u f n s).dialTone = s.dialTone ∧ (gzInit u f n s).timerPend = s.timerPend ∧ (gzInit u f n s).iq = s.iq ∧
    (gzInit u f n s).codec = s.codec ∧ (gzInit u f n s).tone = s.tone ∧ (gzInit u f n s).det = s.det ∧
    (gzInit u f n s).fsk = s.fsk ∧ (gzInit u f n s).chan = s.chan ∧ (gzInit u f n s).txq = s.txq ∧
    (gzInit u f n s).v8 = s.v8 ∧ (gzInit u f n s).pending = s.pending ∧ (gzInit u f n s).resp = s.resp := by
  simp [gzInit]

/-- A sample into a unit keeps everything but the bank. -/
@[simp] theorem goertzelStep_keeps (u : Nat) (x : Int) :
    (goertzelStep u x s).srate = s.srate ∧ (goertzelStep u x s).callState = s.callState ∧
    (goertzelStep u x s).dialTone = s.dialTone ∧ (goertzelStep u x s).timerPend = s.timerPend ∧
    (goertzelStep u x s).iq = s.iq ∧ (goertzelStep u x s).codec = s.codec ∧ (goertzelStep u x s).tone = s.tone ∧
    (goertzelStep u x s).det = s.det ∧ (goertzelStep u x s).fsk = s.fsk ∧ (goertzelStep u x s).chan = s.chan ∧
    (goertzelStep u x s).txq = s.txq ∧ (goertzelStep u x s).v8 = s.v8 ∧ (goertzelStep u x s).pending = s.pending ∧
    (goertzelStep u x s).resp = s.resp := by
  simp [goertzelStep]

/-- Building a table keeps everything but the tables. -/
@[simp] theorem buildIq_keeps (t f len : Nat) :
    (buildIq t f len s).srate = s.srate ∧ (buildIq t f len s).callState = s.callState ∧
    (buildIq t f len s).dialTone = s.dialTone ∧ (buildIq t f len s).timerPend = s.timerPend ∧
    (buildIq t f len s).gz = s.gz ∧ (buildIq t f len s).codec = s.codec ∧ (buildIq t f len s).tone = s.tone ∧
    (buildIq t f len s).det = s.det ∧ (buildIq t f len s).fsk = s.fsk ∧ (buildIq t f len s).chan = s.chan ∧
    (buildIq t f len s).txq = s.txq ∧ (buildIq t f len s).v8 = s.v8 ∧ (buildIq t f len s).pending = s.pending ∧
    (buildIq t f len s).resp = s.resp := by
  simp [buildIq]

/-- Clearing a table's length keeps everything but the tables. -/
@[simp] theorem clearIqLen_keeps (t : Nat) :
    (clearIqLen s t).srate = s.srate ∧ (clearIqLen s t).callState = s.callState ∧
    (clearIqLen s t).dialTone = s.dialTone ∧ (clearIqLen s t).timerPend = s.timerPend ∧ (clearIqLen s t).gz = s.gz ∧
    (clearIqLen s t).codec = s.codec ∧ (clearIqLen s t).tone = s.tone ∧ (clearIqLen s t).det = s.det ∧
    (clearIqLen s t).fsk = s.fsk ∧ (clearIqLen s t).chan = s.chan ∧ (clearIqLen s t).txq = s.txq ∧
    (clearIqLen s t).v8 = s.v8 ∧ (clearIqLen s t).pending = s.pending ∧ (clearIqLen s t).resp = s.resp := by
  simp [clearIqLen]

/-- A sample into a unit leaves the other units. -/
theorem gzAt_goertzelStep (u j : Nat) (x : Int) (h : u < 16) :
    (goertzelStep u x s).gzAt j = if u = j then (s.gzAt u).step x else s.gzAt j := by
  simp [goertzelStep, gzAt_setGz, h]

/-! ### Frame codecs -/

/-- All that loading a byte does: refused while a frame goes out, else the frame's bits and their count. -/
theorem codec_load_eq (c : Codec) (b : Byte) :
    c.load b = if c.bn = 0#4 then some { c with bframe := frameBits b c.order, bn := 10#4 } else none := by
  unfold Codec.load
  by_cases h : c.bn = 0#4 <;> simp [h]

/-- Taking a bit from an idle builder gives mark and keeps the codec. -/
theorem codec_pop_idle {c : Codec} (h : c.bn = 0#4) : c.pop = (c, true) := by simp [Codec.pop, h]

/-- Taking a bit from a busy builder gives the frame's next bit and counts it. -/
theorem codec_pop_busy {c : Codec} (h : c.bn ≠ 0#4) :
    c.pop = ({ c with bn := c.bn - 1#4 }, c.bframe.getLsbD (c.bn.toNat - 1)) := by simp [Codec.pop, h]

/-- Taking a bit keeps the parser and the order. -/
@[simp] theorem codec_pop_keeps (c : Codec) :
    c.pop.1.order = c.order ∧ c.pop.1.pst = c.pst ∧ c.pop.1.pk = c.pk ∧ c.pop.1.pacc = c.pacc ∧ c.pop.1.bframe = c.bframe := by
  unfold Codec.pop
  split <;> simp

/-- A received bit keeps the builder and the order. -/
@[simp] theorem codec_push_keeps (c : Codec) (b : Bool) :
    (c.push b).1.order = c.order ∧ (c.push b).1.bn = c.bn ∧ (c.push b).1.bframe = c.bframe := by
  unfold Codec.push
  split
  · cases b <;> simp
  · dsimp only; split <;> simp
  · simp

/-- A byte comes out of the parser exactly on a stop bit 1 in its last state. -/
theorem codec_push_byte (c : Codec) (b : Bool) (v : Byte) :
    (c.push b).2 = some v ↔ c.pst = .stop ∧ b = true ∧ v = c.pacc := by
  unfold Codec.push
  split <;> rename_i h
  · simp [h]
  · dsimp only; split <;> simp [h]
  · cases b <;> simp [h, eq_comm]

/-- Taking a bit keeps everything but the codecs. -/
@[simp] theorem frmPop_keeps (k : Nat) :
    (frmPop k s).1.srate = s.srate ∧ (frmPop k s).1.callState = s.callState ∧ (frmPop k s).1.dialTone = s.dialTone ∧
    (frmPop k s).1.timerPend = s.timerPend ∧ (frmPop k s).1.gz = s.gz ∧ (frmPop k s).1.iq = s.iq ∧
    (frmPop k s).1.tone = s.tone ∧ (frmPop k s).1.det = s.det ∧ (frmPop k s).1.fsk = s.fsk ∧
    (frmPop k s).1.chan = s.chan ∧ (frmPop k s).1.txq = s.txq ∧ (frmPop k s).1.v8 = s.v8 ∧
    (frmPop k s).1.pending = s.pending ∧ (frmPop k s).1.resp = s.resp := by
  simp [frmPop]

/-- A received bit keeps everything but the codecs. -/
@[simp] theorem frmPush_keeps (k : Nat) (b : Bool) :
    (frmPush k b s).1.srate = s.srate ∧ (frmPush k b s).1.callState = s.callState ∧
    (frmPush k b s).1.dialTone = s.dialTone ∧ (frmPush k b s).1.timerPend = s.timerPend ∧
    (frmPush k b s).1.gz = s.gz ∧ (frmPush k b s).1.iq = s.iq ∧ (frmPush k b s).1.tone = s.tone ∧
    (frmPush k b s).1.det = s.det ∧ (frmPush k b s).1.fsk = s.fsk ∧ (frmPush k b s).1.chan = s.chan ∧
    (frmPush k b s).1.txq = s.txq ∧ (frmPush k b s).1.v8 = s.v8 ∧ (frmPush k b s).1.pending = s.pending ∧
    (frmPush k b s).1.resp = s.resp := by
  simp [frmPush]

/-- Resetting a codec keeps everything but the codecs. -/
@[simp] theorem frmReset_keeps (k : Nat) :
    (frmReset k s).srate = s.srate ∧ (frmReset k s).callState = s.callState ∧ (frmReset k s).dialTone = s.dialTone ∧
    (frmReset k s).timerPend = s.timerPend ∧ (frmReset k s).gz = s.gz ∧ (frmReset k s).iq = s.iq ∧
    (frmReset k s).tone = s.tone ∧ (frmReset k s).det = s.det ∧ (frmReset k s).fsk = s.fsk ∧
    (frmReset k s).chan = s.chan ∧ (frmReset k s).txq = s.txq ∧ (frmReset k s).v8 = s.v8 ∧
    (frmReset k s).pending = s.pending ∧ (frmReset k s).resp = s.resp := by
  simp [frmReset]

/-- All that `frm_load` does: refused while a frame goes out, else one codec is loaded. -/
theorem frmLoad_eq (k : Nat) (b : Byte) :
    frmLoad k b s = if (s.codecAt k).bn = 0#4
      then some (s.setCodec k { s.codecAt k with bframe := frameBits b (s.codecAt k).order, bn := 10#4 }) else none := by
  unfold frmLoad
  rw [codec_load_eq]
  split <;> rfl

/-! ### FSK engine -/

/-- Clearing the scheme keeps everything but the FSK engine, the tables, the `LINE` codec and the queue. -/
@[simp] theorem fskClear_keeps :
    (fskClear s).srate = s.srate ∧ (fskClear s).callState = s.callState ∧ (fskClear s).dialTone = s.dialTone ∧
    (fskClear s).timerPend = s.timerPend ∧ (fskClear s).gz = s.gz ∧ (fskClear s).tone = s.tone ∧
    (fskClear s).det = s.det ∧ (fskClear s).v8 = s.v8 ∧ (fskClear s).pending = s.pending ∧ (fskClear s).resp = s.resp := by
  have h : ∀ {β : Type} (g : State → β) (hg : ∀ u t, g (clearIqLen u t) = g u) (u : State),
      g ((List.range Config.iqTables).foldl clearIqLen u) = g u := fun g hg u => foldl_keeps g clearIqLen hg _ u
  unfold fskClear
  simp only [txqClear_srate, txqClear_callState, txqClear_dialTone, txqClear_timerPend, txqClear_gz, txqClear_tone,
    txqClear_det, txqClear_v8, txqClear_pending, txqClear_resp, frmReset_keeps]
  refine ⟨?_, ?_, ?_, ?_, ?_, ?_, ?_, ?_, ?_, ?_⟩
  · exact h State.srate (by simp) _
  · exact h State.callState (by simp) _
  · exact h State.dialTone (by simp) _
  · exact h State.timerPend (by simp) _
  · exact h State.gz (by simp) _
  · exact h State.tone (by simp) _
  · exact h State.det (by simp) _
  · exact h State.v8 (by simp) _
  · exact h State.pending (by simp) _
  · exact h State.resp (by simp) _

/-- Setting a channel up keeps everything but the channels and the tables. -/
@[simp] theorem fskSetChannel_keeps (d : SchemeDesc) (c : Nat) :
    (fskSetChannel d s c).srate = s.srate ∧ (fskSetChannel d s c).callState = s.callState ∧
    (fskSetChannel d s c).dialTone = s.dialTone ∧ (fskSetChannel d s c).timerPend = s.timerPend ∧
    (fskSetChannel d s c).gz = s.gz ∧ (fskSetChannel d s c).codec = s.codec ∧ (fskSetChannel d s c).tone = s.tone ∧
    (fskSetChannel d s c).det = s.det ∧ (fskSetChannel d s c).fsk = s.fsk ∧ (fskSetChannel d s c).txq = s.txq ∧
    (fskSetChannel d s c).v8 = s.v8 ∧ (fskSetChannel d s c).pending = s.pending ∧ (fskSetChannel d s c).resp = s.resp := by
  simp [fskSetChannel]

/-- Selecting a scheme keeps everything but the FSK engine, the tables, the `LINE` codec and the queue. -/
@[simp] theorem fskSelect_keeps (id : Byte) :
    (fskSelect id s).srate = s.srate ∧ (fskSelect id s).callState = s.callState ∧
    (fskSelect id s).dialTone = s.dialTone ∧ (fskSelect id s).timerPend = s.timerPend ∧ (fskSelect id s).gz = s.gz ∧
    (fskSelect id s).tone = s.tone ∧ (fskSelect id s).det = s.det ∧ (fskSelect id s).v8 = s.v8 ∧
    (fskSelect id s).pending = s.pending ∧ (fskSelect id s).resp = s.resp := by
  have h : ∀ {β : Type} (g : State → β) (d : SchemeDesc) (hg : ∀ u c, g (fskSetChannel d u c) = g u) (u : State),
      g ((List.range d.nch).foldl (fskSetChannel d) u) = g u := fun g d hg u => foldl_keeps g (fskSetChannel d) hg _ u
  unfold fskSelect
  by_cases hid : id = 0#8
  · simp [hid]
  · simp only [hid, if_false]
    refine ⟨?_, ?_, ?_, ?_, ?_, ?_, ?_, ?_, ?_, ?_⟩
    · rw [h State.srate _ (by simp)]; simp
    · rw [h State.callState _ (by simp)]; simp
    · rw [h State.dialTone _ (by simp)]; simp
    · rw [h State.timerPend _ (by simp)]; simp
    · rw [h State.gz _ (by simp)]; simp
    · rw [h State.tone _ (by simp)]; simp
    · rw [h State.det _ (by simp)]; simp
    · rw [h State.v8 _ (by simp)]; simp
    · rw [h State.pending _ (by simp)]; simp
    · rw [h State.resp _ (by simp)]; simp

/-- `FSK_TXEN` is not touched by a selection. -/
@[simp] theorem fskSelect_txen (id : Byte) : (fskSelect id s).fsk.txen = s.fsk.txen := by
  have hc : (fskClear s).fsk.txen = s.fsk.txen := by
    unfold fskClear
    simp only [txqClear_fsk, frmReset_keeps]
    rw [foldl_keeps State.fsk clearIqLen (by simp)]
  unfold fskSelect
  by_cases hid : id = 0#8
  · simp [hid, hc]
  · simp only [hid, if_false]
    rw [foldl_keeps State.fsk (fskSetChannel _) (by simp), hc]

/-- The data path's bit source keeps everything but the codecs and the queue. -/
@[simp] theorem dataPopTxBit_keeps :
    (dataPopTxBit s).1.srate = s.srate ∧ (dataPopTxBit s).1.callState = s.callState ∧
    (dataPopTxBit s).1.dialTone = s.dialTone ∧ (dataPopTxBit s).1.timerPend = s.timerPend ∧
    (dataPopTxBit s).1.gz = s.gz ∧ (dataPopTxBit s).1.iq = s.iq ∧ (dataPopTxBit s).1.tone = s.tone ∧
    (dataPopTxBit s).1.det = s.det ∧ (dataPopTxBit s).1.fsk = s.fsk ∧ (dataPopTxBit s).1.chan = s.chan ∧
    (dataPopTxBit s).1.v8 = s.v8 ∧ (dataPopTxBit s).1.pending = s.pending ∧ (dataPopTxBit s).1.resp = s.resp := by
  unfold dataPopTxBit
  split
  · dsimp only
    rw [frmLoad_eq]
    split <;> simp
  · simp

/-- The data path's bit sink keeps everything but the codecs and the events. -/
@[simp] theorem dataPushRxBit_keeps (b : Bool) :
    (dataPushRxBit b s).srate = s.srate ∧ (dataPushRxBit b s).callState = s.callState ∧
    (dataPushRxBit b s).dialTone = s.dialTone ∧ (dataPushRxBit b s).timerPend = s.timerPend ∧
    (dataPushRxBit b s).gz = s.gz ∧ (dataPushRxBit b s).iq = s.iq ∧ (dataPushRxBit b s).tone = s.tone ∧
    (dataPushRxBit b s).det = s.det ∧ (dataPushRxBit b s).fsk = s.fsk ∧ (dataPushRxBit b s).chan = s.chan ∧
    (dataPushRxBit b s).txq = s.txq ∧ (dataPushRxBit b s).v8 = s.v8 ∧ (dataPushRxBit b s).pending = s.pending := by
  unfold dataPushRxBit
  dsimp only
  split <;> simp

/-- What one modulated sample keeps, given what the bit source keeps: every part but the channels. -/
theorem modSample_keeps {β : Type} (g : State → β) (src : State → State × Bool) (hc : ∀ u c x, g (State.setChan u c x) = g u)
    (hs : ∀ u, g (src u).1 = g u) : g (modSample src s).1 = g s := by
  unfold modSample
  split
  · rfl
  · dsimp only
    rw [hc]
    split
    · rw [hc, hs, hc]
    · rw [hc]

/-- What one demodulated sample keeps, given what the bit sink keeps: every part but the channels. -/
theorem demSample_keeps {β : Type} (g : State → β) (sink : Bool → State → State) (x : Word)
    (hc : ∀ u c y, g (State.setChan u c y) = g u) (hs : ∀ b u, g (sink b u) = g u) : g (demSample sink x s) = g s := by
  unfold demSample
  split
  · rfl
  · dsimp only
    rw [apply_ite g, hs, hc, hc, ite_self]

/-- What a block of demodulated samples keeps. -/
theorem demBlock_keeps {β : Type} (g : State → β) (sink : Bool → State → State) (xs : List Word)
    (hc : ∀ u c y, g (State.setChan u c y) = g u) (hs : ∀ b u, g (sink b u) = g u) : g (demBlock sink xs s) = g s :=
  foldl_keeps g _ (fun u x => demSample_keeps u g sink x hc hs) xs s

/-- A block of samples demodulated in two parts. -/
theorem demBlock_append (sink : Bool → State → State) (xs ys : List Word) :
    demBlock sink (xs ++ ys) s = demBlock sink ys (demBlock sink xs s) := by
  simp [demBlock]

/-- With no scheme or with transmission off the modulator gives zero and keeps the state. -/
theorem modSample_off (src : State → State × Bool) (h : s.fsk.scheme = 0#8 ∨ s.fsk.txen = false) :
    modSample src s = (s, 0#32) := by
  simp only [modSample, h, if_true]

/-! ### V.8 engine -/

/-- No phase change, no event. -/
theorem v8Set_same {p : Phase} (h : s.v8.phase = p) : v8Set p s = s := by simp [v8Set, h]

/-- A phase change to a phase other than `NEGOTIATED` writes the phase and emits one event. -/
theorem v8Set_change {p : Phase} (h : s.v8.phase ≠ p) (hn : p ≠ .negotiated) :
    v8Set p s = State.emit { s with v8 := { s.v8 with phase := p } } (.v8State s.v8.phase p) := by
  simp [v8Set, h, hn]

/-- A phase change to `NEGOTIATED` also runs the façade's hook. -/
theorem v8Set_negotiated (h : s.v8.phase ≠ .negotiated) :
    v8Set .negotiated s =
      negotiatedHook (State.emit { s with v8 := { s.v8 with phase := .negotiated } } (.v8State s.v8.phase .negotiated)) := by
  simp [v8Set, h]

/-- Outside call state `V8` the hook does nothing. -/
theorem negotiatedHook_outside (h : s.callState ≠ .v8) : negotiatedHook s = s := by simp [negotiatedHook, h]

/-- Selecting the data scheme keeps what every selection keeps. -/
@[simp] theorem selectDataScheme_keeps :
    (selectDataScheme s).srate = s.srate ∧ (selectDataScheme s).callState = s.callState ∧
    (selectDataScheme s).dialTone = s.dialTone ∧ (selectDataScheme s).timerPend = s.timerPend ∧
    (selectDataScheme s).gz = s.gz ∧ (selectDataScheme s).tone = s.tone ∧ (selectDataScheme s).det = s.det ∧
    (selectDataScheme s).v8 = s.v8 ∧ (selectDataScheme s).pending = s.pending ∧ (selectDataScheme s).resp = s.resp := by
  simp [selectDataScheme]

/-- Setting the directions keeps everything but the scheme registers. -/
@[simp] theorem dataDirections_keeps :
    (dataDirections s).srate = s.srate ∧ (dataDirections s).callState = s.callState ∧
    (dataDirections s).dialTone = s.dialTone ∧ (dataDirections s).timerPend = s.timerPend ∧
    (dataDirections s).gz = s.gz ∧ (dataDirections s).iq = s.iq ∧ (dataDirections s).codec = s.codec ∧
    (dataDirections s).tone = s.tone ∧ (dataDirections s).det = s.det ∧ (dataDirections s).chan = s.chan ∧
    (dataDirections s).txq = s.txq ∧ (dataDirections s).v8 = s.v8 ∧ (dataDirections s).pending = s.pending ∧
    (dataDirections s).resp = s.resp := by
  unfold dataDirections
  split <;> simp

/-- The hook keeps everything but the call state, the pre-data timer's request, and what a scheme selection writes. -/
@[simp] theorem negotiatedHook_keeps :
    (negotiatedHook s).srate = s.srate ∧ (negotiatedHook s).dialTone = s.dialTone ∧ (negotiatedHook s).gz = s.gz ∧
    (negotiatedHook s).tone = s.tone ∧ (negotiatedHook s).det = s.det ∧ (negotiatedHook s).v8 = s.v8 ∧
    (negotiatedHook s).pending = s.pending := by
  unfold negotiatedHook
  split <;> simp

/-- Setting the phase leaves that phase, whatever the hook does. -/
@[simp] theorem v8Set_phase (p : Phase) : (v8Set p s).v8.phase = p := by
  by_cases h : s.v8.phase = p
  · simp [v8Set, h]
  · unfold v8Set
    rw [if_neg h]
    dsimp only
    split <;> simp

/-- Setting the phase keeps everything but what the hook writes, and the V.8 registers. -/
@[simp] theorem v8Set_keeps (p : Phase) :
    (v8Set p s).srate = s.srate ∧ (v8Set p s).dialTone = s.dialTone ∧ (v8Set p s).gz = s.gz ∧
    (v8Set p s).tone = s.tone ∧ (v8Set p s).det = s.det ∧ (v8Set p s).pending = s.pending := by
  unfold v8Set
  split
  · simp
  · dsimp only
    split <;> simp

/-- Setting a phase other than `NEGOTIATED` keeps everything but the phase and the events. -/
theorem v8Set_plain_keeps {β : Type} (g : State → β) {p : Phase} (hn : p ≠ .negotiated)
    (hg : ∀ u v r, g { u with v8 := v, resp := r } = g u) : g (v8Set p s) = g s := by
  by_cases h : s.v8.phase = p
  · rw [v8Set_same s h]
  · rw [v8Set_change s h hn]
    exact hg s _ _

/-- The V.8 registers but the phase are kept by a phase change. -/
@[simp] theorem v8Set_v8 (p : Phase) : (v8Set p s).v8 = { s.v8 with phase := p } := by
  by_cases h : s.v8.phase = p
  · rw [v8Set_same s h, ← h]
  · unfold v8Set
    rw [if_neg h]
    dsimp only
    split <;> simp

/-- Adding to the receive set keeps everything but the V.8 registers. -/
@[simp] theorem rxCapAdd_keeps (i : Byte) :
    (rxCapAdd s i).srate = s.srate ∧ (rxCapAdd s i).callState = s.callState ∧ (rxCapAdd s i).dialTone = s.dialTone ∧
    (rxCapAdd s i).timerPend = s.timerPend ∧ (rxCapAdd s i).gz = s.gz ∧ (rxCapAdd s i).iq = s.iq ∧
    (rxCapAdd s i).codec = s.codec ∧ (rxCapAdd s i).tone = s.tone ∧ (rxCapAdd s i).det = s.det ∧
    (rxCapAdd s i).fsk = s.fsk ∧ (rxCapAdd s i).chan = s.chan ∧ (rxCapAdd s i).txq = s.txq ∧
    (rxCapAdd s i).pending = s.pending ∧ (rxCapAdd s i).resp = s.resp := by
  unfold rxCapAdd
  split <;> simp

/-- All that adding to the transmit set does when it accepts the item. -/
theorem txCapAdd_eq_some (i : Byte) (t : State) :
    txCapAdd i s = some t ↔ capAccepts (txItems s) i = true ∧
      t = { s with v8 := { s.v8 with txcaps := ramWrite s.v8.txcaps s.v8.ntx.toNat i, ntx := s.v8.ntx + 1#5 } } := by
  unfold txCapAdd
  split <;> rename_i h
  · simp [h, eq_comm]
  · simp [h]

/-- Parsing a menu keeps everything but the V.8 registers. -/
@[simp] theorem menuParse_keeps (buf : List Byte) :
    (menuParse buf s).srate = s.srate ∧ (menuParse buf s).callState = s.callState ∧
    (menuParse buf s).dialTone = s.dialTone ∧ (menuParse buf s).timerPend = s.timerPend ∧
    (menuParse buf s).gz = s.gz ∧ (menuParse buf s).iq = s.iq ∧ (menuParse buf s).codec = s.codec ∧
    (menuParse buf s).tone = s.tone ∧ (menuParse buf s).det = s.det ∧ (menuParse buf s).fsk = s.fsk ∧
    (menuParse buf s).chan = s.chan ∧ (menuParse buf s).txq = s.txq ∧ (menuParse buf s).pending = s.pending ∧
    (menuParse buf s).resp = s.resp := by
  unfold menuParse
  refine ⟨?_, ?_, ?_, ?_, ?_, ?_, ?_, ?_, ?_, ?_, ?_, ?_, ?_, ?_⟩ <;> exact foldl_keeps _ rxCapAdd (by simp) _ s

/-- Parsing a menu writes the receive set alone. -/
theorem menuParse_v8 (buf : List Byte) :
    ∃ nrx rxcaps, menuParse buf s = { s with v8 := { s.v8 with nrx := nrx, rxcaps := rxcaps } } := by
  unfold menuParse
  generalize menuItems none buf = l
  induction l generalizing s with
  | nil => exact ⟨s.v8.nrx, s.v8.rxcaps, rfl⟩
  | cons i l ih =>
    rw [List.foldl_cons]
    obtain ⟨n, c, h⟩ := ih (rxCapAdd s i)
    rw [h]
    unfold rxCapAdd
    split
    · exact ⟨n, c, rfl⟩
    · exact ⟨n, c, rfl⟩

/-- Making a menu ready keeps everything but the V.8 registers. -/
@[simp] theorem v8LoadMenu_keeps (items : List Byte) :
    (v8LoadMenu items s).srate = s.srate ∧ (v8LoadMenu items s).callState = s.callState ∧
    (v8LoadMenu items s).dialTone = s.dialTone ∧ (v8LoadMenu items s).timerPend = s.timerPend ∧
    (v8LoadMenu items s).gz = s.gz ∧ (v8LoadMenu items s).iq = s.iq ∧ (v8LoadMenu items s).codec = s.codec ∧
    (v8LoadMenu items s).tone = s.tone ∧ (v8LoadMenu items s).det = s.det ∧ (v8LoadMenu items s).fsk = s.fsk ∧
    (v8LoadMenu items s).chan = s.chan ∧ (v8LoadMenu items s).txq = s.txq ∧ (v8LoadMenu items s).pending = s.pending ∧
    (v8LoadMenu items s).resp = s.resp := by
  simp [v8LoadMenu]

/-- Making a menu ready writes the outgoing buffer, its length and the cursor. -/
theorem v8LoadMenu_v8 (items : List Byte) :
    (v8LoadMenu items s).v8 = { s.v8 with
      out := ramFill s.v8.out 0 (menuOctets items), outlen := BitVec.ofNat 5 (menuOctets items).length, cursor := 0#16 } := rfl

/-- The Call Menu loaded after any selection and any directions: what is kept. -/
theorem loadMenu_after_select (id : Byte) (tx rx : BitVec 1) (en : Bool) (items : List Byte) {t : State}
    (ht : t = v8LoadMenu items (fskSetDirections tx rx en (fskSelect id s))) :
    t.srate = s.srate ∧ t.callState = s.callState ∧ t.dialTone = s.dialTone ∧ t.timerPend = s.timerPend ∧ t.gz = s.gz ∧
    t.tone = s.tone ∧ t.det = s.det ∧ t.pending = s.pending ∧ t.resp = s.resp ∧
    t.v8 = { s.v8 with
      out := ramFill s.v8.out 0 (menuOctets items), outlen := BitVec.ofNat 5 (menuOctets items).length,
      cursor := 0#16 } := by
  subst ht
  refine ⟨?_, ?_, ?_, ?_, ?_, ?_, ?_, ?_, ?_, ?_⟩
  iterate 9 (simp)
  rw [v8LoadMenu_v8]
  simp

/-- The items a selection leaves in the transmit set are those that were there. -/
theorem txItems_after_select (id : Byte) (tx rx : BitVec 1) (en : Bool) :
    txItems (fskSetDirections tx rx en (fskSelect id s)) = txItems s := by
  simp [txItems]

theorem v8PrepareCm_eq :
    v8PrepareCm s = v8LoadMenu (txItems s) (fskSetDirections 1#1 0#1 true (fskSelect Config.v8Scheme s)) :=
  congrArg (fun items => v8LoadMenu items (fskSetDirections 1#1 0#1 true (fskSelect Config.v8Scheme s)))
    (txItems_after_select s Config.v8Scheme 1#1 0#1 true)

/-- Preparing the Call Menu keeps everything but what a scheme selection writes, and of the V.8 registers all but the
outgoing buffer, its length and the cursor. -/
@[simp] theorem v8PrepareCm_keeps :
    (v8PrepareCm s).srate = s.srate ∧ (v8PrepareCm s).callState = s.callState ∧
    (v8PrepareCm s).dialTone = s.dialTone ∧ (v8PrepareCm s).timerPend = s.timerPend ∧ (v8PrepareCm s).gz = s.gz ∧
    (v8PrepareCm s).tone = s.tone ∧ (v8PrepareCm s).det = s.det ∧ (v8PrepareCm s).pending = s.pending ∧
    (v8PrepareCm s).resp = s.resp ∧
    (v8PrepareCm s).v8 = { s.v8 with
      out := ramFill s.v8.out 0 (menuOctets (txItems s)), outlen := BitVec.ofNat 5 (menuOctets (txItems s)).length,
      cursor := 0#16 } :=
  loadMenu_after_select s Config.v8Scheme 1#1 0#1 true (txItems s) (v8PrepareCm_eq s)

/-- Outside `TX_ANS` the end of a tone does not concern the V.8 engine. -/
theorem v8ToneDone_outside (h : s.v8.phase ≠ .txAns) : v8ToneDone s = s := by simp [v8ToneDone, h]

/-- The end of a tone keeps everything but what a scheme selection writes, the V.8 registers and the events. -/
@[simp] theorem v8ToneDone_keeps :
    (v8ToneDone s).srate = s.srate ∧ (v8ToneDone s).callState = s.callState ∧ (v8ToneDone s).dialTone = s.dialTone ∧
    (v8ToneDone s).timerPend = s.timerPend ∧ (v8ToneDone s).gz = s.gz ∧ (v8ToneDone s).tone = s.tone ∧
    (v8ToneDone s).det = s.det ∧ (v8ToneDone s).pending = s.pending := by
  unfold v8ToneDone
  split
  · simp
  · have h : ∀ {β : Type} (g : State → β) (_ : ∀ u v r, g { u with v8 := v, resp := r } = g u),
        g (v8Set .sentAnsam (v8PrepareCm s)) = g (v8PrepareCm s) :=
      fun g hg => v8Set_plain_keeps _ g (by decide) hg
    exact ⟨(h State.srate (by simp)).trans (by simp), (h State.callState (by simp)).trans (by simp),
      (h State.dialTone (by simp)).trans (by simp), (h State.timerPend (by simp)).trans (by simp),
      (h State.gz (by simp)).trans (by simp), (h State.tone (by simp)).trans (by simp),
      (h State.det (by simp)).trans (by simp), (h State.pending (by simp)).trans (by simp)⟩

/-! ### Tone transmitter -/

/-- A segment that is not exhausted is left alone. -/
theorem toneSettle_unspent (h : s.tone.spent = false) : toneSettle s = s := by
  simp [toneSettle, toneSettleLoop, h]

/-- An exhausted segment with no successor ends the tone. -/
theorem toneSettle_end (h : s.tone.spent = true) (hs : s.tone.succ = 0#8) : toneSettle s = toneEnd s := by
  simp [toneSettle, toneSettleLoop, h, hs]

/-- No tone, no sample, no change. -/
theorem toneSample_off (h : s.tone.active = false) : toneSample s = (s, 0#32) := by simp [toneSample, h]

/-- A sample that leaves budget only moves the tone registers. -/
theorem toneSample_inside (h : s.tone.active = true)
    (hl : ¬ ((s.tone.advance.reverse.spend).finite = true ∧ (s.tone.advance.reverse.spend).left = 0#32)) :
    toneSample s = ({ s with tone := s.tone.advance.reverse.spend }, word32 s.tone.value) := by
  unfold toneSample
  rw [if_neg (by simp [h])]
  dsimp only
  rw [if_neg hl]

/-- The reversal keeps every register but the phases and its counter. -/
@[simp] theorem toneTx_reverse_keeps (t : ToneTx) :
    t.reverse.active = t.active ∧ t.reverse.id = t.id ∧ t.reverse.inc1 = t.inc1 ∧ t.reverse.inc2 = t.inc2 ∧
    t.reverse.has2 = t.has2 ∧ t.reverse.amInc = t.amInc ∧ t.reverse.amPh = t.amPh ∧ t.reverse.amMid = t.amMid ∧
    t.reverse.amHalf = t.amHalf ∧ t.reverse.revInt = t.revInt ∧ t.reverse.finite = t.finite ∧ t.reverse.left = t.left ∧
    t.reverse.succ = t.succ ∧ t.reverse.gain = t.gain := by
  unfold ToneTx.reverse
  split
  · simp
  · split <;> simp

/-- The budget keeps every register but its own. -/
@[simp] theorem toneTx_spend_keeps (t : ToneTx) :
    t.spend.active = t.active ∧ t.spend.id = t.id ∧ t.spend.inc1 = t.inc1 ∧ t.spend.inc2 = t.inc2 ∧
    t.spend.has2 = t.has2 ∧ t.spend.ph1 = t.ph1 ∧ t.spend.ph2 = t.ph2 ∧ t.spend.amInc = t.amInc ∧ t.spend.amPh = t.amPh ∧
    t.spend.amMid = t.amMid ∧ t.spend.amHalf = t.amHalf ∧ t.spend.revInt = t.revInt ∧ t.spend.revLeft = t.revLeft ∧
    t.spend.finite = t.finite ∧ t.spend.succ = t.succ ∧ t.spend.gain = t.gain := by
  unfold ToneTx.spend
  split <;> simp

/-- The end of a tone keeps everything but the tone, and what `v8_tone_done` writes. -/
@[simp] theorem toneEnd_keeps :
    (toneEnd s).srate = s.srate ∧ (toneEnd s).callState = s.callState ∧ (toneEnd s).dialTone = s.dialTone ∧
    (toneEnd s).timerPend = s.timerPend ∧ (toneEnd s).gz = s.gz ∧ (toneEnd s).det = s.det ∧
    (toneEnd s).pending = s.pending := by
  simp [toneEnd]

/-- The loop of `tone_settle` keeps everything but the tone, and what `v8_tone_done` writes. -/
@[simp] theorem toneSettleLoop_keeps (fuel : Nat) :
    (toneSettleLoop fuel s).srate = s.srate ∧
    (toneSettleLoop fuel s).callState = s.callState ∧
    (toneSettleLoop fuel s).dialTone = s.dialTone ∧
    (toneSettleLoop fuel s).timerPend = s.timerPend ∧
    (toneSettleLoop fuel s).gz = s.gz ∧
    (toneSettleLoop fuel s).det = s.det ∧
    (toneSettleLoop fuel s).pending = s.pending := by
  induction fuel generalizing s with
  | zero => simp [toneSettleLoop]
  | succ fuel ih =>
    unfold toneSettleLoop
    split
    · split
      · simpa using ih (toneLoad s.tone.succ 0#32 s.tone.gain 0xFFFF#16 s)
      · simp
    · simp

/-- `tone_settle` keeps everything but the tone, and what `v8_tone_done` writes. -/
@[simp] theorem toneSettle_keeps :
    (toneSettle s).srate = s.srate ∧ (toneSettle s).callState = s.callState ∧ (toneSettle s).dialTone = s.dialTone ∧
    (toneSettle s).timerPend = s.timerPend ∧ (toneSettle s).gz = s.gz ∧ (toneSettle s).det = s.det ∧
    (toneSettle s).pending = s.pending := by
  simp [toneSettle]

/-- Starting a tone keeps everything but the tone, and what `v8_tone_done` writes. -/
@[simp] theorem toneStart_keeps (id : Byte) (total gain : Word) (so : BitVec 16) :
    (toneStart id total gain so s).srate = s.srate ∧ (toneStart id total gain so s).callState = s.callState ∧
    (toneStart id total gain so s).dialTone = s.dialTone ∧ (toneStart id total gain so s).timerPend = s.timerPend ∧
    (toneStart id total gain so s).gz = s.gz ∧ (toneStart id total gain so s).det = s.det ∧
    (toneStart id total gain so s).pending = s.pending := by
  simp [toneStart]

/-- Starting a tone by its frequencies keeps everything but the tone, and what `v8_tone_done` writes. -/
@[simp] theorem toneStartF_keeps (f1 f2 total gain : Word) :
    (toneStartF f1 f2 total gain s).srate = s.srate ∧ (toneStartF f1 f2 total gain s).callState = s.callState ∧
    (toneStartF f1 f2 total gain s).dialTone = s.dialTone ∧ (toneStartF f1 f2 total gain s).timerPend = s.timerPend ∧
    (toneStartF f1 f2 total gain s).gz = s.gz ∧ (toneStartF f1 f2 total gain s).det = s.det ∧
    (toneStartF f1 f2 total gain s).pending = s.pending := by
  simp [toneStartF]

/-- A tone sample keeps everything but the tone, and what `v8_tone_done` writes. -/
@[simp] theorem toneSample_keeps :
    (toneSample s).1.srate = s.srate ∧ (toneSample s).1.callState = s.callState ∧
    (toneSample s).1.dialTone = s.dialTone ∧ (toneSample s).1.timerPend = s.timerPend ∧ (toneSample s).1.gz = s.gz ∧
    (toneSample s).1.det = s.det ∧ (toneSample s).1.pending = s.pending := by
  unfold toneSample
  split
  · simp
  · dsimp only
    split <;> simp

/-! ### Tone classifier -/

/-- Setting up the units of a subset keeps everything but the bank. -/
@[simp] theorem detInitUnits_keeps (base : Nat) (l : List Nat) :
    (detInitUnits base l s).srate = s.srate ∧
    (detInitUnits base l s).callState = s.callState ∧
    (detInitUnits base l s).dialTone = s.dialTone ∧
    (detInitUnits base l s).timerPend = s.timerPend ∧
    (detInitUnits base l s).iq = s.iq ∧
    (detInitUnits base l s).codec = s.codec ∧
    (detInitUnits base l s).tone = s.tone ∧
    (detInitUnits base l s).det = s.det ∧
    (detInitUnits base l s).fsk = s.fsk ∧
    (detInitUnits base l s).chan = s.chan ∧
    (detInitUnits base l s).txq = s.txq ∧
    (detInitUnits base l s).v8 = s.v8 ∧
    (detInitUnits base l s).pending = s.pending ∧
    (detInitUnits base l s).resp = s.resp := by
  induction l generalizing s base with
  | nil => simp [detInitUnits]
  | cons f l ih => simpa [detInitUnits] using ih (base := base + 1) (s := gzInit base f Config.detBlock s)

/-- Clearing a unit keeps everything but the bank. -/
@[simp] theorem detClearUnit_keeps (u : Nat) :
    (detClearUnit s u).srate = s.srate ∧ (detClearUnit s u).callState = s.callState ∧
    (detClearUnit s u).dialTone = s.dialTone ∧ (detClearUnit s u).timerPend = s.timerPend ∧
    (detClearUnit s u).iq = s.iq ∧ (detClearUnit s u).codec = s.codec ∧ (detClearUnit s u).tone = s.tone ∧
    (detClearUnit s u).det = s.det ∧ (detClearUnit s u).fsk = s.fsk ∧ (detClearUnit s u).chan = s.chan ∧
    (detClearUnit s u).txq = s.txq ∧ (detClearUnit s u).v8 = s.v8 ∧ (detClearUnit s u).pending = s.pending ∧
    (detClearUnit s u).resp = s.resp := by
  simp [detClearUnit]

/-- Clearing the owned units keeps everything but the bank. -/
@[simp] theorem detClearUnits_keeps :
    (detClearUnits s).srate = s.srate ∧ (detClearUnits s).callState = s.callState ∧
    (detClearUnits s).dialTone = s.dialTone ∧ (detClearUnits s).timerPend = s.timerPend ∧
    (detClearUnits s).iq = s.iq ∧ (detClearUnits s).codec = s.codec ∧ (detClearUnits s).tone = s.tone ∧
    (detClearUnits s).det = s.det ∧ (detClearUnits s).fsk = s.fsk ∧ (detClearUnits s).chan = s.chan ∧
    (detClearUnits s).txq = s.txq ∧ (detClearUnits s).v8 = s.v8 ∧ (detClearUnits s).pending = s.pending ∧
    (detClearUnits s).resp = s.resp := by
  unfold detClearUnits
  refine ⟨?_, ?_, ?_, ?_, ?_, ?_, ?_, ?_, ?_, ?_, ?_, ?_, ?_, ?_⟩ <;> exact foldl_keeps _ detClearUnit (by simp) _ s

/-- `det_clear` keeps everything but the classifier and the bank. -/
@[simp] theorem detClear_keeps :
    (detClear s).srate = s.srate ∧ (detClear s).callState = s.callState ∧ (detClear s).dialTone = s.dialTone ∧
    (detClear s).timerPend = s.timerPend ∧ (detClear s).iq = s.iq ∧ (detClear s).codec = s.codec ∧
    (detClear s).tone = s.tone ∧ (detClear s).fsk = s.fsk ∧ (detClear s).chan = s.chan ∧ (detClear s).txq = s.txq ∧
    (detClear s).v8 = s.v8 ∧ (detClear s).pending = s.pending ∧ (detClear s).resp = s.resp := by
  simp [detClear]

/-- A sample into the classifier keeps everything but the classifier and the bank. -/
@[simp] theorem detStep_keeps (dual : Bool) (x : Word) :
    (detStep dual s x).srate = s.srate ∧ (detStep dual s x).callState = s.callState ∧
    (detStep dual s x).dialTone = s.dialTone ∧ (detStep dual s x).timerPend = s.timerPend ∧
    (detStep dual s x).iq = s.iq ∧ (detStep dual s x).codec = s.codec ∧ (detStep dual s x).tone = s.tone ∧
    (detStep dual s x).fsk = s.fsk ∧ (detStep dual s x).chan = s.chan ∧ (detStep dual s x).txq = s.txq ∧
    (detStep dual s x).v8 = s.v8 ∧ (detStep dual s x).pending = s.pending ∧ (detStep dual s x).resp = s.resp := by
  have h : ∀ {β : Type} (g : State → β) (_ : ∀ t u, g (goertzelStep u (sampleInt x) t) = g t),
      g ((fedUnits s dual).foldl (fun t u => goertzelStep u (sampleInt x) t) s) = g s :=
    fun g hg => foldl_keeps g _ hg _ s
  unfold detStep
  exact ⟨h State.srate (by simp), h State.callState (by simp), h State.dialTone (by simp), h State.timerPend (by simp),
    h State.iq (by simp), h State.codec (by simp), h State.tone (by simp), h State.fsk (by simp), h State.chan (by simp),
    h State.txq (by simp), h State.v8 (by simp), h State.pending (by simp), h State.resp (by simp)⟩

/-- Classifying keeps everything but the classifier. -/
@[simp] theorem classify_keeps (c : Byte) (used : Nat) :
    (classify c used s).1.srate = s.srate ∧ (classify c used s).1.callState = s.callState ∧
    (classify c used s).1.dialTone = s.dialTone ∧ (classify c used s).1.timerPend = s.timerPend ∧
    (classify c used s).1.gz = s.gz ∧ (classify c used s).1.iq = s.iq ∧ (classify c used s).1.codec = s.codec ∧
    (classify c used s).1.tone = s.tone ∧ (classify c used s).1.fsk = s.fsk ∧ (classify c used s).1.chan = s.chan ∧
    (classify c used s).1.txq = s.txq ∧ (classify c used s).1.v8 = s.v8 ∧ (classify c used s).1.pending = s.pending ∧
    (classify c used s).1.resp = s.resp := by
  unfold classify
  split
  · simp
  · dsimp only
    split_ifs <;> simp

/-- Classifying keeps the configuration and the fill count. -/
@[simp] theorem classify_det_keeps (c : Byte) (used : Nat) :
    (classify c used s).1.det.n = s.det.n ∧ (classify c used s).1.det.na = s.det.na ∧
    (classify c used s).1.det.nb = s.det.nb ∧ (classify c used s).1.det.candId = s.det.candId ∧
    (classify c used s).1.det.fa = s.det.fa ∧ (classify c used s).1.det.fb = s.det.fb ∧
    (classify c used s).1.det.fill = s.det.fill := by
  unfold classify
  split
  · simp
  · dsimp only
    split_ifs <;> simp

/-- A report of a classification says how many samples were used. -/
@[simp] theorem classify_used (c : Byte) (used : Nat) : (classify c used s).2.used = used := by
  unfold classify
  split
  · rfl
  · dsimp only
    split_ifs <;> rfl

/-- The end of a block keeps everything but the classifier and the bank. -/
@[simp] theorem detFinish_keeps (dual : Bool) (used : Nat) :
    (detFinish dual used s).1.srate = s.srate ∧ (detFinish dual used s).1.callState = s.callState ∧
    (detFinish dual used s).1.dialTone = s.dialTone ∧ (detFinish dual used s).1.timerPend = s.timerPend ∧
    (detFinish dual used s).1.iq = s.iq ∧ (detFinish dual used s).1.codec = s.codec ∧
    (detFinish dual used s).1.tone = s.tone ∧ (detFinish dual used s).1.fsk = s.fsk ∧
    (detFinish dual used s).1.chan = s.chan ∧ (detFinish dual used s).1.txq = s.txq ∧
    (detFinish dual used s).1.v8 = s.v8 ∧ (detFinish dual used s).1.pending = s.pending ∧
    (detFinish dual used s).1.resp = s.resp := by
  simp [detFinish]

/-- A block of samples into the classifier keeps everything but the classifier and the bank. -/
@[simp] theorem detect_keeps (dual : Bool) (xs : List Word) :
    (detect dual xs s).1.srate = s.srate ∧ (detect dual xs s).1.callState = s.callState ∧
    (detect dual xs s).1.dialTone = s.dialTone ∧ (detect dual xs s).1.timerPend = s.timerPend ∧
    (detect dual xs s).1.iq = s.iq ∧ (detect dual xs s).1.codec = s.codec ∧ (detect dual xs s).1.tone = s.tone ∧
    (detect dual xs s).1.fsk = s.fsk ∧ (detect dual xs s).1.chan = s.chan ∧ (detect dual xs s).1.txq = s.txq ∧
    (detect dual xs s).1.v8 = s.v8 ∧ (detect dual xs s).1.pending = s.pending ∧ (detect dual xs s).1.resp = s.resp := by
  have h : ∀ {β : Type} (g : State → β) (_ : ∀ t x, g (detStep dual t x) = g t) (ys : List Word),
      g (ys.foldl (detStep dual) s) = g s := fun g hg ys => foldl_keeps g _ hg ys s
  unfold detect
  split
  · simp
  · dsimp only
    split
    · refine ⟨?_, ?_, ?_, ?_, ?_, ?_, ?_, ?_, ?_, ?_, ?_, ?_, ?_⟩ <;> exact h _ (by simp) _
    · simp only [detFinish_keeps]
      refine ⟨?_, ?_, ?_, ?_, ?_, ?_, ?_, ?_, ?_, ?_, ?_, ?_, ?_⟩ <;> exact h _ (by simp) _

/-- All that configuring the classifier does when it accepts the candidates. -/
theorem detCfg_eq_some (ids : List Nat) (t : State) :
    detCfg ids s = some t ↔ (subsetA ids).length ≤ 8 ∧ (subsetB ids).length ≤ 8 ∧
      t = detInitUnits 8 (subsetB ids) (detInitUnits 0 (subsetA ids)
        { s with det := detRegs ids (subsetA ids) (subsetB ids) }) := by
  unfold detCfg
  dsimp only
  split <;> rename_i h
  · simp only [reduceCtorEq, false_iff]
    rintro ⟨h1, h2, -⟩
    simp only [Config.detSubsetMax] at h
    omega
  · simp only [Config.detSubsetMax, not_or, Nat.not_lt] at h
    simp [h, eq_comm]

/-- The two listen candidates are accepted. -/
theorem detCfg_listen : (detCfg listenIds s).isSome = true := by
  simp only [detCfg]
  rw [if_neg (by decide)]
  rfl

/-- The sixteen DTMF tones are accepted. -/
theorem detCfg_dtmf : (detCfg dtmfIds s).isSome = true := by
  simp only [detCfg]
  rw [if_neg (by decide)]
  rfl

/-! ### The classifier in the terms of the rules -/

/-- `classify` writes and answers what R206 says (`spec/42_tone_engine.md`), and nothing else. -/
theorem classify_eq (c : Byte) (used : Nat) (s : State) :
    classify c used s =
      (let r := blockClass s.srate s.det c
       ({ s with det := { s.det with cand := r.2.2.1, hits := r.2.2.2 } }, ⟨r.1, r.2.1, used⟩)) := by
  by_cases hc : c = 0#8
  · subst hc; rfl
  · simp only [classify, blockClass, hc, ↓reduceIte, detBlock_eq, msToSamples, ne_eq, ite_not]
    split_ifs <;> first | rfl | (exfalso; push_cast at *; omega)

/-- `argmaxFrom` goes on from a best value so far to the strongest of all. -/
theorem argmaxFrom_spec (l : List Int) : ∀ (p : Nat → Int) (best j : Nat), best < j →
    (∀ i, i < l.length → l.getD i 0 = p (j + i)) → (∀ i, i < j → p i ≤ p best) → (∀ i, i < best → p i < p best) →
    strongest (j + l.length) p (argmaxFrom best (p best) j l) := by
  induction l with
  | nil =>
    intro p best j hb _ h1 h2
    exact ⟨by simpa [argmaxFrom] using hb, by simpa [argmaxFrom] using h1, by simpa [argmaxFrom] using h2⟩
  | cons v l ih =>
    intro p best j hb hl h1 h2
    have hv : v = p j := by simpa using hl 0 (by simp)
    have hl' : ∀ i, i < l.length → l.getD i 0 = p (j + 1 + i) := fun i hi => by
      have := hl (i + 1) (by simpa using hi)
      simpa [Nat.add_assoc, Nat.add_comm 1 i] using this
    have hlen : j + (v :: l).length = j + 1 + l.length := by simp; omega
    rw [hlen, argmaxFrom, hv]
    split
    · rename_i hlt
      refine ih p j (j + 1) (by omega) hl' (fun i hi => ?_) (fun i hi => ?_)
      · rcases Nat.lt_succ_iff_lt_or_eq.mp hi with h | h
        · exact (h1 i h).trans hlt.le
        · rw [h]
      · exact (h1 i hi).trans_lt hlt
    · rename_i hlt
      refine ih p best (j + 1) (by omega) hl' (fun i hi => ?_) h2
      rcases Nat.lt_succ_iff_lt_or_eq.mp hi with h | h
      · exact h1 i h
      · rw [h]; exact not_lt.mp hlt

/-- `argmax` of the values `p 0 .. p (m - 1)` is the strongest of them (`spec/42_tone_engine.md` R203). -/
theorem argmax_strongest (p : Nat → Int) (m : Nat) (hm : 0 < m) : strongest m p (argmax ((List.range m).map p)) := by
  obtain ⟨k, rfl⟩ : ∃ k, m = k + 1 := ⟨m - 1, by omega⟩
  rw [List.range_succ_eq_map]
  simp only [List.map_cons, argmax]
  have := argmaxFrom_spec ((List.range k).map (fun i => p (i + 1))) p 0 1 (by omega)
    (fun i hi => by simp only [List.length_map, List.length_range] at hi; simp [hi, Nat.add_comm]) (fun i hi => by
      have : i = 0 := by omega
      rw [this]) (by simp)
  simpa [Nat.add_comm 1 k, List.map_map, Function.comp_def] using this

end Sys2Proof.Laws
end

