-- ==== Sys2Proof/Laws/Engine.lean ====
section
/-! SUPPORT. What the V.8 engine's and the façade's procedures keep, said once for each. -/

namespace Sys2Proof.Laws

open Sys2Proof.Machine

/-- Every memory after reset is in its canonical form: nothing is listed (`spec/10_state.md` R56). -/
theorem reset_memoryWf : State.reset.memoryWf = true := by decide

variable (s : State)

/-! ### V.8 bits -/

/-- Moving the cursor keeps everything but the V.8 registers. -/
@[simp] theorem v8NextBit_keeps :
    (v8NextBit s).1.srate = s.srate ∧ (v8NextBit s).1.callState = s.callState ∧
    (v8NextBit s).1.dialTone = s.dialTone ∧ (v8NextBit s).1.timerPend = s.timerPend ∧ (v8NextBit s).1.gz = s.gz ∧
    (v8NextBit s).1.iq = s.iq ∧ (v8NextBit s).1.codec = s.codec ∧ (v8NextBit s).1.tone = s.tone ∧
    (v8NextBit s).1.det = s.det ∧ (v8NextBit s).1.fsk = s.fsk ∧ (v8NextBit s).1.chan = s.chan ∧
    (v8NextBit s).1.txq = s.txq ∧ (v8NextBit s).1.pending = s.pending ∧ (v8NextBit s).1.resp = s.resp := by
  simp [v8NextBit]

/-- What the V.8 bit source keeps: a call that leaves the first answer tone also emits an event. -/
@[simp] theorem v8PopTxBit_keeps :
    (v8PopTxBit s).1.srate = s.srate ∧ (v8PopTxBit s).1.callState = s.callState ∧ (v8PopTxBit s).1.dialTone = s.dialTone ∧
    (v8PopTxBit s).1.timerPend = s.timerPend ∧ (v8PopTxBit s).1.gz = s.gz ∧ (v8PopTxBit s).1.iq = s.iq ∧
    (v8PopTxBit s).1.codec = s.codec ∧ (v8PopTxBit s).1.tone = s.tone ∧ (v8PopTxBit s).1.det = s.det ∧
    (v8PopTxBit s).1.fsk = s.fsk ∧ (v8PopTxBit s).1.chan = s.chan ∧ (v8PopTxBit s).1.txq = s.txq ∧
    (v8PopTxBit s).1.pending = s.pending := by
  unfold v8PopTxBit
  split
  · rename_i h
    rw [v8Set_change s (by rw [h]; decide) (by decide)]
    simp
  all_goals simp

/-- Building the Joint Menu keeps what a phase change keeps. -/
@[simp] theorem v8SendJm_keeps (en : Bool) :
    (v8SendJm en s).srate = s.srate ∧ (v8SendJm en s).dialTone = s.dialTone ∧ (v8SendJm en s).gz = s.gz ∧
    (v8SendJm en s).tone = s.tone ∧ (v8SendJm en s).det = s.det ∧ (v8SendJm en s).pending = s.pending := by
  unfold v8SendJm
  cases en <;> simp

/-- Confirming a menu keeps what a phase change keeps. -/
@[simp] theorem v8Confirm_keeps :
    (v8Confirm s).srate = s.srate ∧ (v8Confirm s).dialTone = s.dialTone ∧ (v8Confirm s).gz = s.gz ∧
    (v8Confirm s).tone = s.tone ∧ (v8Confirm s).det = s.det ∧ (v8Confirm s).pending = s.pending := by
  unfold v8Confirm
  split <;> simp

/-- Starting a new accumulation keeps everything but the V.8 registers and the codecs. -/
@[simp] theorem markerClear_keeps :
    (markerClear s).srate = s.srate ∧ (markerClear s).callState = s.callState ∧
    (markerClear s).dialTone = s.dialTone ∧ (markerClear s).timerPend = s.timerPend ∧ (markerClear s).gz = s.gz ∧
    (markerClear s).iq = s.iq ∧ (markerClear s).tone = s.tone ∧ (markerClear s).det = s.det ∧
    (markerClear s).fsk = s.fsk ∧ (markerClear s).chan = s.chan ∧ (markerClear s).txq = s.txq ∧
    (markerClear s).pending = s.pending ∧ (markerClear s).resp = s.resp := by
  simp [markerClear]

/-- A marker keeps what a phase change keeps. -/
@[simp] theorem v8Marker_keeps :
    (v8Marker s).srate = s.srate ∧ (v8Marker s).dialTone = s.dialTone ∧ (v8Marker s).gz = s.gz ∧
    (v8Marker s).tone = s.tone ∧ (v8Marker s).det = s.det ∧ (v8Marker s).pending = s.pending := by
  unfold v8Marker
  split
  · dsimp only
    split <;> simp
  · simp

/-- Storing a received byte keeps everything but the V.8 registers. -/
@[simp] theorem v8StoreByte_keeps (b : Byte) :
    (v8StoreByte b s).srate = s.srate ∧ (v8StoreByte b s).callState = s.callState ∧
    (v8StoreByte b s).dialTone = s.dialTone ∧ (v8StoreByte b s).timerPend = s.timerPend ∧
    (v8StoreByte b s).gz = s.gz ∧ (v8StoreByte b s).iq = s.iq ∧ (v8StoreByte b s).codec = s.codec ∧
    (v8StoreByte b s).tone = s.tone ∧ (v8StoreByte b s).det = s.det ∧ (v8StoreByte b s).fsk = s.fsk ∧
    (v8StoreByte b s).chan = s.chan ∧ (v8StoreByte b s).txq = s.txq ∧ (v8StoreByte b s).pending = s.pending ∧
    (v8StoreByte b s).resp = s.resp := by
  unfold v8StoreByte
  dsimp only
  split <;> simp

/-- A bit of a received frame keeps what a phase change keeps. -/
@[simp] theorem v8FrameBit_keeps (b : Bool) :
    (v8FrameBit b s).srate = s.srate ∧ (v8FrameBit b s).dialTone = s.dialTone ∧ (v8FrameBit b s).gz = s.gz ∧
    (v8FrameBit b s).tone = s.tone ∧ (v8FrameBit b s).det = s.det ∧ (v8FrameBit b s).pending = s.pending := by
  unfold v8FrameBit
  dsimp only
  split
  · simp
  · split <;> simp

/-- A bit into the shift register keeps what a phase change keeps. -/
@[simp] theorem v8TakeBit_keeps (b : Bool) :
    (v8TakeBit b s).srate = s.srate ∧ (v8TakeBit b s).dialTone = s.dialTone ∧ (v8TakeBit b s).gz = s.gz ∧
    (v8TakeBit b s).tone = s.tone ∧ (v8TakeBit b s).det = s.det ∧ (v8TakeBit b s).pending = s.pending := by
  unfold v8TakeBit
  dsimp only
  split <;> simp

/-- A received bit keeps what a phase change keeps. -/
@[simp] theorem v8PushRxBit_keeps (b : Bool) :
    (v8PushRxBit b s).srate = s.srate ∧ (v8PushRxBit b s).dialTone = s.dialTone ∧ (v8PushRxBit b s).gz = s.gz ∧
    (v8PushRxBit b s).tone = s.tone ∧ (v8PushRxBit b s).det = s.det ∧ (v8PushRxBit b s).pending = s.pending := by
  unfold v8PushRxBit
  split <;> simp

/-- Outside the menu phases a received bit is discarded. -/
theorem v8PushRxBit_discard (b : Bool)
    (h : s.v8.phase ≠ .sentAnsam ∧ s.v8.phase ≠ .sentCm ∧ s.v8.phase ≠ .waitCm ∧ s.v8.phase ≠ .sentJm) :
    v8PushRxBit b s = s := by
  unfold v8PushRxBit
  split <;> simp_all

/-! ### V.8 samples -/

/-- A transmitted V.8 sample keeps the rate, the call state, the timers, the bank and the classifier. -/
@[simp] theorem v8TxSample_keeps :
    (v8TxSample s).1.srate = s.srate ∧ (v8TxSample s).1.callState = s.callState ∧
    (v8TxSample s).1.dialTone = s.dialTone ∧ (v8TxSample s).1.timerPend = s.timerPend ∧ (v8TxSample s).1.gz = s.gz ∧
    (v8TxSample s).1.det = s.det ∧ (v8TxSample s).1.pending = s.pending := by
  have h : ∀ {β : Type} (g : State → β) (_ : ∀ u c x, g (State.setChan u c x) = g u) (_ : ∀ u, g (v8PopTxBit u).1 = g u),
      g (modSample v8PopTxBit s).1 = g s := fun g hc hs => modSample_keeps s g v8PopTxBit hc hs
  have hm : (modSample v8PopTxBit s).1.srate = s.srate ∧ (modSample v8PopTxBit s).1.callState = s.callState ∧
      (modSample v8PopTxBit s).1.dialTone = s.dialTone ∧ (modSample v8PopTxBit s).1.timerPend = s.timerPend ∧
      (modSample v8PopTxBit s).1.gz = s.gz ∧ (modSample v8PopTxBit s).1.det = s.det ∧
      (modSample v8PopTxBit s).1.pending = s.pending :=
    ⟨h State.srate (by simp) (by simp), h State.callState (by simp) (by simp), h State.dialTone (by simp) (by simp),
      h State.timerPend (by simp) (by simp), h State.gz (by simp) (by simp), h State.det (by simp) (by simp),
      h State.pending (by simp) (by simp)⟩
  unfold v8TxSample
  split
  · simp
  · exact hm
  · exact hm
  · exact hm
  all_goals simp

/-- A phase change after any selection and any directions: what is kept. -/
theorem v8Set_after_select (id : Byte) (p : Phase) (tx rx : BitVec 1) (en : Bool) {t : State}
    (ht : t = v8Set p (fskSetDirections tx rx en (fskSelect id s))) :
    t.srate = s.srate ∧ t.dialTone = s.dialTone ∧ t.gz = s.gz ∧ t.tone = s.tone ∧ t.det = s.det ∧ t.pending = s.pending := by
  subst ht
  simp

/-- Hearing an answer keeps what a phase change keeps. -/
@[simp] theorem answerSeen_keeps :
    (answerSeen s).srate = s.srate ∧ (answerSeen s).dialTone = s.dialTone ∧ (answerSeen s).gz = s.gz ∧
    (answerSeen s).tone = s.tone ∧ (answerSeen s).det = s.det ∧ (answerSeen s).pending = s.pending :=
  v8Set_after_select s Config.v8Scheme .waitCm 0#1 1#1 false rfl

/-- A sample into the V.8 receiver keeps what a received bit keeps. -/
theorem demSample_v8_keeps (x : Word) :
    (demSample v8PushRxBit x s).srate = s.srate ∧
    (demSample v8PushRxBit x s).dialTone = s.dialTone ∧
    (demSample v8PushRxBit x s).tone = s.tone ∧
    (demSample v8PushRxBit x s).pending = s.pending :=
  ⟨demSample_keeps s State.srate v8PushRxBit x (by simp) (by simp), demSample_keeps s State.dialTone v8PushRxBit x (by simp) (by simp), demSample_keeps s State.tone v8PushRxBit x (by simp) (by simp), demSample_keeps s State.pending v8PushRxBit x (by simp) (by simp)⟩

/-- Received samples keep the rate, the dial tone, the tone transmitter and the port. -/
@[simp] theorem v8RxLoop_keeps (fuel : Nat) (xs : List Word) :
    (v8RxLoop fuel xs s).srate = s.srate ∧
    (v8RxLoop fuel xs s).dialTone = s.dialTone ∧
    (v8RxLoop fuel xs s).tone = s.tone ∧
    (v8RxLoop fuel xs s).pending = s.pending := by
  induction fuel generalizing s xs with
  | zero => simp [v8RxLoop]
  | succ fuel ih =>
    cases xs with
    | nil => simp [v8RxLoop]
    | cons x xs =>
      unfold v8RxLoop
      have hd := demSample_v8_keeps s x
      split
      · dsimp only
        split
        · simpa using ih (answerSeen (detect false (x :: xs) s).1) ((x :: xs).drop (detect false (x :: xs) s).2.used)
        · simpa using ih (detect false (x :: xs) s).1 ((x :: xs).drop (detect false (x :: xs) s).2.used)
      · simpa [hd] using ih (demSample v8PushRxBit x s) xs
      · simpa [hd] using ih (demSample v8PushRxBit x s) xs
      · simpa [hd] using ih (demSample v8PushRxBit x s) xs
      · simpa [hd] using ih (demSample v8PushRxBit x s) xs
      all_goals simp

/-- A received block keeps the rate, the dial tone, the tone transmitter and the port. -/
@[simp] theorem v8RxBlock_keeps (xs : List Word) :
    (v8RxBlock xs s).srate = s.srate ∧ (v8RxBlock xs s).dialTone = s.dialTone ∧ (v8RxBlock xs s).tone = s.tone ∧
    (v8RxBlock xs s).pending = s.pending := by
  simp [v8RxBlock]

/-- Clearing a session keeps everything but the V.8 registers and the codecs. -/
@[simp] theorem v8SessionClear_keeps :
    (v8SessionClear s).srate = s.srate ∧ (v8SessionClear s).callState = s.callState ∧
    (v8SessionClear s).dialTone = s.dialTone ∧ (v8SessionClear s).timerPend = s.timerPend ∧
    (v8SessionClear s).gz = s.gz ∧ (v8SessionClear s).iq = s.iq ∧ (v8SessionClear s).tone = s.tone ∧
    (v8SessionClear s).det = s.det ∧ (v8SessionClear s).fsk = s.fsk ∧ (v8SessionClear s).chan = s.chan ∧
    (v8SessionClear s).txq = s.txq ∧ (v8SessionClear s).pending = s.pending ∧ (v8SessionClear s).resp = s.resp := by
  simp [v8SessionClear]

/-! ### Façade -/

/-- A digit keeps everything but the call state, the timers, the tone and the events. -/
@[simp] theorem digit_keeps :
    (digit s).srate = s.srate ∧ (digit s).dialTone = s.dialTone ∧ (digit s).gz = s.gz ∧ (digit s).iq = s.iq ∧
    (digit s).codec = s.codec ∧ (digit s).det = s.det ∧ (digit s).fsk = s.fsk ∧ (digit s).chan = s.chan ∧
    (digit s).txq = s.txq ∧ (digit s).v8 = s.v8 ∧ (digit s).pending = s.pending := by
  unfold digit
  split <;> simp

/-- Going on hook keeps the rate and the port. -/
@[simp] theorem goOnHook_keeps :
    (goOnHook s).srate = s.srate ∧ (goOnHook s).pending = s.pending ∧ (goOnHook s).resp = s.resp ∧
    (goOnHook s).v8.ntx = s.v8.ntx ∧ (goOnHook s).v8.txcaps = s.v8.txcaps := by
  simp [goOnHook]

/-- Going on hook puts every other part at its reset value. -/
@[simp] theorem goOnHook_resets :
    (goOnHook s).callState = .onHook ∧ (goOnHook s).dialTone = 0#8 ∧ (goOnHook s).timerPend = 0#2 ∧
    (goOnHook s).gz = State.reset.gz ∧ (goOnHook s).iq = State.reset.iq ∧ (goOnHook s).tone = ToneTx.reset ∧
    (goOnHook s).det = Detector.reset ∧ (goOnHook s).fsk = FskRegs.reset ∧ (goOnHook s).chan = State.reset.chan ∧
    (goOnHook s).txq = TxQueue.reset ∧ (goOnHook s).v8.phase = .idle := by
  refine ⟨rfl, rfl, rfl, rfl, rfl, rfl, rfl, rfl, rfl, rfl, rfl⟩

/-- A pulled sample keeps the rate, the call state, the timers, the bank and the classifier. -/
@[simp] theorem pullSample_keeps :
    (pullSample s).1.srate = s.srate ∧ (pullSample s).1.callState = s.callState ∧
    (pullSample s).1.dialTone = s.dialTone ∧ (pullSample s).1.timerPend = s.timerPend ∧ (pullSample s).1.gz = s.gz ∧
    (pullSample s).1.det = s.det ∧ (pullSample s).1.pending = s.pending := by
  have h : ∀ {β : Type} (g : State → β) (_ : ∀ u c x, g (State.setChan u c x) = g u) (_ : ∀ u, g (dataPopTxBit u).1 = g u),
      g (modSample dataPopTxBit s).1 = g s := fun g hc hs => modSample_keeps s g dataPopTxBit hc hs
  unfold pullSample
  split
  · simp
  · simp
  · simp
  · simp
  · exact ⟨h State.srate (by simp) (by simp), h State.callState (by simp) (by simp), h State.dialTone (by simp) (by simp),
      h State.timerPend (by simp) (by simp), h State.gz (by simp) (by simp), h State.det (by simp) (by simp),
      h State.pending (by simp) (by simp)⟩

/-- The bootstrap bytes keep everything but the queue. -/
@[simp] theorem bootstrap_keeps :
    (bootstrap s).srate = s.srate ∧ (bootstrap s).callState = s.callState ∧ (bootstrap s).timerPend = s.timerPend ∧
    (bootstrap s).codec = s.codec ∧ (bootstrap s).fsk = s.fsk ∧ (bootstrap s).v8 = s.v8 ∧ (bootstrap s).resp = s.resp ∧
    (bootstrap s).pending = s.pending :=
  ⟨foldl_keeps State.srate txqOffer (by simp) _ s, foldl_keeps State.callState txqOffer (by simp) _ s,
    foldl_keeps State.timerPend txqOffer (by simp) _ s, foldl_keeps State.codec txqOffer (by simp) _ s,
    foldl_keeps State.fsk txqOffer (by simp) _ s, foldl_keeps State.v8 txqOffer (by simp) _ s,
    foldl_keeps State.resp txqOffer (by simp) _ s, foldl_keeps State.pending txqOffer (by simp) _ s⟩

end Sys2Proof.Laws
end

