-- ==== Sys2Proof/Laws/PerInstr.lean ====
section
/-! SUPPORT. The families of `LAWS.json`: a statement about every instruction as syntax, one lemma per constructor. -/

namespace Sys2Proof.Laws.Encodes

open Sys2Proof.Machine

/-- The encoding of a well-formed instruction has an allocated operation code and legal fields (`spec/30_encoding.md` R93, R97), and
is followed by as many argument and sample words as R101 fixes for its command word. -/
def Statement (i : Instr) : Prop :=
  i.wellFormed = true →
    cwAllocated (encode i).cw = true ∧ cwFieldsOk (encode i).cw = true ∧
    (encode i).args.length = argWords (encode i).cw ∧ (encode i).samples.length = sampleWords (encode i).cw

/-- The operation code of a row is allocated. -/
theorem allocated_of {op sel : BitVec 8} {imm : BitVec 16} (h : fieldRows.any (fun r => r.op == op.toNat) = true) :
    cwAllocated (mkCw op sel imm) = true := by
  simpa only [cwAllocated, cwOp_mkCw] using h

/-- A command word whose only row admits its two fields is legal. -/
theorem fieldsOk_of {op sel : BitVec 8} {imm : BitVec 16} (r : FieldRow)
    (hr : fieldRows.all (fun q => q.op != op.toNat || q == r) = true) (hs : r.sel.admits sel.toNat = true)
    (hi : r.imm.admits imm.toNat = true) (hv : op.toNat ≠ 0x50 ∨ sel.toNat ≠ 1 ∨ imm.toNat = 0) :
    cwFieldsOk (mkCw op sel imm) = true := by
  simp only [cwFieldsOk, cwOp_mkCw, cwSel_mkCw, cwImm_mkCw, Bool.and_eq_true, Bool.or_eq_true, decide_eq_true_eq]
  refine ⟨?_, ?_⟩
  · rw [List.all_eq_true] at hr ⊢
    intro q hq
    rcases Bool.or_eq_true_iff.mp (hr q hq) with h | h
    · simp [h]
    · simp [beq_iff_eq.mp h, hs, hi]
  · rcases hv with h | h | h
    · exact .inl (.inl h)
    · exact .inl (.inr h)
    · exact .inr h

theorem below_of {n v : Nat} (h : v < n) : (FieldRule.below n).admits v = true := by simpa [FieldRule.admits] using h

theorem below_sel {n : Nat} (u : Fin n) (hn : n ≤ 256) : (FieldRule.below n).admits (BitVec.ofNat 8 u.val).toNat = true :=
  below_of (by rw [selOf_toNat u hn]; exact u.isLt)

theorem nop : Statement .nop := fun _ =>
  ⟨allocated_of (by decide), fieldsOk_of ⟨0x00, .zero, .zero⟩ (by decide) (rfl) (rfl) (.inl (by decide)),
    by
      simp only [encode, argWords, cwOp_mkCw]; rfl,
    by
      simp only [encode, sampleWords, cwOp_mkCw]; rfl⟩

theorem reset : Statement .reset := fun _ =>
  ⟨allocated_of (by decide), fieldsOk_of ⟨0x01, .zero, .zero⟩ (by decide) (rfl) (rfl) (.inl (by decide)),
    by
      simp only [encode, argWords, cwOp_mkCw]; rfl,
    by
      simp only [encode, sampleWords, cwOp_mkCw]; rfl⟩

theorem setRate (hz : Word) : Statement (.setRate hz) := fun _ =>
  ⟨allocated_of (by decide), fieldsOk_of ⟨0x02, .zero, .zero⟩ (by decide) (rfl) (rfl) (.inl (by decide)),
    by
      simp only [encode, argWords, cwOp_mkCw]; rfl,
    by
      simp only [encode, sampleWords, cwOp_mkCw]; rfl⟩

theorem getRate : Statement .getRate := fun _ =>
  ⟨allocated_of (by decide), fieldsOk_of ⟨0x03, .zero, .zero⟩ (by decide) (rfl) (rfl) (.inl (by decide)),
    by
      simp only [encode, argWords, cwOp_mkCw]; rfl,
    by
      simp only [encode, sampleWords, cwOp_mkCw]; rfl⟩

theorem rdReg (index : BitVec 8) (id : BitVec 16) : Statement (.rdReg index id) := fun _ =>
  ⟨allocated_of (by decide), fieldsOk_of ⟨0x04, .any, .any⟩ (by decide) (rfl) (rfl) (.inl (by decide)),
    by
      simp only [encode, argWords, cwOp_mkCw]; rfl,
    by
      simp only [encode, sampleWords, cwOp_mkCw]; rfl⟩

theorem rdMem (mem : BitVec 8) (addr : BitVec 16) : Statement (.rdMem mem addr) := fun _ =>
  ⟨allocated_of (by decide), fieldsOk_of ⟨0x05, .any, .any⟩ (by decide) (rfl) (rfl) (.inl (by decide)),
    by
      simp only [encode, argWords, cwOp_mkCw]; rfl,
    by
      simp only [encode, sampleWords, cwOp_mkCw]; rfl⟩

theorem phaseInc (f : Word) : Statement (.phaseInc f) := fun _ =>
  ⟨allocated_of (by decide), fieldsOk_of ⟨0x10, .zero, .zero⟩ (by decide) (rfl) (rfl) (.inl (by decide)),
    by
      simp only [encode, argWords, cwOp_mkCw]; rfl,
    by
      simp only [encode, sampleWords, cwOp_mkCw]; rfl⟩

theorem phaseInv : Statement .phaseInv := fun _ =>
  ⟨allocated_of (by decide), fieldsOk_of ⟨0x11, .zero, .zero⟩ (by decide) (rfl) (rfl) (.inl (by decide)),
    by
      simp only [encode, argWords, cwOp_mkCw]; rfl,
    by
      simp only [encode, sampleWords, cwOp_mkCw]; rfl⟩

theorem sine (ph : Word) : Statement (.sine ph) := fun _ =>
  ⟨allocated_of (by decide), fieldsOk_of ⟨0x12, .zero, .zero⟩ (by decide) (rfl) (rfl) (.inl (by decide)),
    by
      simp only [encode, argWords, cwOp_mkCw]; rfl,
    by
      simp only [encode, sampleWords, cwOp_mkCw]; rfl⟩

theorem gzInit (u : Fin 16) (n : BitVec 16) (f : Word) : Statement (.gzInit u n f) := fun _ =>
  ⟨allocated_of (by decide), fieldsOk_of ⟨0x13, .below 16, .any⟩ (by decide) (below_sel u (by decide)) (rfl) (.inl (by decide)),
    by
      simp only [encode, argWords, cwOp_mkCw]; rfl,
    by
      simp only [encode, sampleWords, cwOp_mkCw]; rfl⟩

theorem gzAcc (u : Fin 16) (xs : List Word) : Statement (.gzAcc u xs) := fun h =>
  ⟨allocated_of (by decide), fieldsOk_of ⟨0x14, .below 16, .any⟩ (by decide) (below_sel u (by decide)) (rfl) (.inl (by decide)),
    by
      simp only [encode, argWords, cwOp_mkCw]; rfl,
    by
      simp only [encode, sampleWords, cwOp_mkCw, cwImm_mkCw]
      exact (countImm_toNat xs h).symm⟩

theorem gzPower (u : Fin 16) : Statement (.gzPower u) := fun _ =>
  ⟨allocated_of (by decide), fieldsOk_of ⟨0x15, .below 16, .zero⟩ (by decide) (below_sel u (by decide)) (rfl) (.inl (by decide)),
    by
      simp only [encode, argWords, cwOp_mkCw]; rfl,
    by
      simp only [encode, sampleWords, cwOp_mkCw]; rfl⟩

theorem iqBuild (t : Fin 4) (len : BitVec 16) (f : Word) : Statement (.iqBuild t len f) := fun _ =>
  ⟨allocated_of (by decide), fieldsOk_of ⟨0x16, .below 4, .any⟩ (by decide) (below_sel t (by decide)) (rfl) (.inl (by decide)),
    by
      simp only [encode, argWords, cwOp_mkCw]; rfl,
    by
      simp only [encode, sampleWords, cwOp_mkCw]; rfl⟩

theorem correlate (t : Fin 4) (q : Component) (start : Word) : Statement (.correlate t q start) := fun _ =>
  ⟨allocated_of (by decide), fieldsOk_of ⟨0x17, .below 8, .zero⟩ (by decide) (below_of (correlateSel_lt t q)) (rfl) (.inl (by decide)),
    by
      simp only [encode, argWords, cwOp_mkCw]; rfl,
    by
      simp only [encode, sampleWords, cwOp_mkCw]; rfl⟩

theorem frmCfg (k : Fin 3) (o : BitOrder) : Statement (.frmCfg k o) := fun _ =>
  ⟨allocated_of (by decide), fieldsOk_of ⟨0x20, .below 3, .below 2⟩ (by decide) (below_sel k (by decide)) (below_of (orderImm_lt o)) (.inl (by decide)),
    by
      simp only [encode, argWords, cwOp_mkCw]; rfl,
    by
      simp only [encode, sampleWords, cwOp_mkCw]; rfl⟩

theorem frmLoad (k : Fin 3) (b : Byte) : Statement (.frmLoad k b) := fun _ =>
  ⟨allocated_of (by decide), fieldsOk_of ⟨0x21, .below 3, .below 256⟩ (by decide) (below_sel k (by decide)) (below_of (byteImm_lt b)) (.inl (by decide)),
    by
      simp only [encode, argWords, cwOp_mkCw]; rfl,
    by
      simp only [encode, sampleWords, cwOp_mkCw]; rfl⟩

theorem frmPop (k : Fin 3) : Statement (.frmPop k) := fun _ =>
  ⟨allocated_of (by decide), fieldsOk_of ⟨0x22, .below 3, .zero⟩ (by decide) (below_sel k (by decide)) (rfl) (.inl (by decide)),
    by
      simp only [encode, argWords, cwOp_mkCw]; rfl,
    by
      simp only [encode, sampleWords, cwOp_mkCw]; rfl⟩

theorem frmPush (k : Fin 3) (b : Bool) : Statement (.frmPush k b) := fun _ =>
  ⟨allocated_of (by decide), fieldsOk_of ⟨0x23, .below 3, .below 2⟩ (by decide) (below_sel k (by decide)) (below_of (bitImm_lt b)) (.inl (by decide)),
    by
      simp only [encode, argWords, cwOp_mkCw]; rfl,
    by
      simp only [encode, sampleWords, cwOp_mkCw]; rfl⟩

theorem frmReset (k : Fin 3) : Statement (.frmReset k) := fun _ =>
  ⟨allocated_of (by decide), fieldsOk_of ⟨0x24, .below 3, .zero⟩ (by decide) (below_sel k (by decide)) (rfl) (.inl (by decide)),
    by
      simp only [encode, argWords, cwOp_mkCw]; rfl,
    by
      simp only [encode, sampleWords, cwOp_mkCw]; rfl⟩

theorem toneStart (id : Byte) (so : BitVec 16) (total : Word) (gain : Word) : Statement (.toneStart id so total gain) := fun _ =>
  ⟨allocated_of (by decide), fieldsOk_of ⟨0x30, .any, .any⟩ (by decide) (rfl) (rfl) (.inl (by decide)),
    by
      simp only [encode, argWords, cwOp_mkCw]; rfl,
    by
      simp only [encode, sampleWords, cwOp_mkCw]; rfl⟩

theorem toneStartF (f1 : Word) (f2 : Word) (total : Word) (gain : Word) : Statement (.toneStartF f1 f2 total gain) := fun _ =>
  ⟨allocated_of (by decide), fieldsOk_of ⟨0x31, .zero, .zero⟩ (by decide) (rfl) (rfl) (.inl (by decide)),
    by
      simp only [encode, argWords, cwOp_mkCw]; rfl,
    by
      simp only [encode, sampleWords, cwOp_mkCw]; rfl⟩

theorem toneTx (count : BitVec 16) : Statement (.toneTx count) := fun _ =>
  ⟨allocated_of (by decide), fieldsOk_of ⟨0x32, .zero, .any⟩ (by decide) (rfl) (rfl) (.inl (by decide)),
    by
      simp only [encode, argWords, cwOp_mkCw]; rfl,
    by
      simp only [encode, sampleWords, cwOp_mkCw]; rfl⟩

theorem toneStop : Statement .toneStop := fun _ =>
  ⟨allocated_of (by decide), fieldsOk_of ⟨0x33, .zero, .zero⟩ (by decide) (rfl) (rfl) (.inl (by decide)),
    by
      simp only [encode, argWords, cwOp_mkCw]; rfl,
    by
      simp only [encode, sampleWords, cwOp_mkCw]; rfl⟩

theorem detCfg (ids : List Word) : Statement (.detCfg ids) := fun h =>
  ⟨allocated_of (by decide), fieldsOk_of ⟨0x34, .zero, .any⟩ (by decide) (rfl) (rfl) (.inl (by decide)),
    by
      simp only [encode, argWords, cwOp_mkCw, cwImm_mkCw]
      exact (countImm_toNat ids h).symm,
    by
      simp only [encode, sampleWords, cwOp_mkCw]; rfl⟩

theorem detSingle (xs : List Word) : Statement (.detSingle xs) := fun h =>
  ⟨allocated_of (by decide), fieldsOk_of ⟨0x35, .zero, .any⟩ (by decide) (rfl) (rfl) (.inl (by decide)),
    by
      simp only [encode, argWords, cwOp_mkCw]; rfl,
    by
      simp only [encode, sampleWords, cwOp_mkCw, cwImm_mkCw]
      exact (countImm_toNat xs h).symm⟩

theorem detDual (xs : List Word) : Statement (.detDual xs) := fun h =>
  ⟨allocated_of (by decide), fieldsOk_of ⟨0x36, .zero, .any⟩ (by decide) (rfl) (rfl) (.inl (by decide)),
    by
      simp only [encode, argWords, cwOp_mkCw]; rfl,
    by
      simp only [encode, sampleWords, cwOp_mkCw, cwImm_mkCw]
      exact (countImm_toNat xs h).symm⟩

theorem detReset : Statement .detReset := fun _ =>
  ⟨allocated_of (by decide), fieldsOk_of ⟨0x37, .zero, .zero⟩ (by decide) (rfl) (rfl) (.inl (by decide)),
    by
      simp only [encode, argWords, cwOp_mkCw]; rfl,
    by
      simp only [encode, sampleWords, cwOp_mkCw]; rfl⟩

theorem fskSelect (id : Byte) : Statement (.fskSelect id) := fun _ =>
  ⟨allocated_of (by decide), fieldsOk_of ⟨0x40, .any, .zero⟩ (by decide) (rfl) (rfl) (.inl (by decide)),
    by
      simp only [encode, argWords, cwOp_mkCw]; rfl,
    by
      simp only [encode, sampleWords, cwOp_mkCw]; rfl⟩

theorem fskTxch (c : Fin 2) : Statement (.fskTxch c) := fun _ =>
  ⟨allocated_of (by decide), fieldsOk_of ⟨0x41, .below 2, .zero⟩ (by decide) (below_sel c (by decide)) (rfl) (.inl (by decide)),
    by
      simp only [encode, argWords, cwOp_mkCw]; rfl,
    by
      simp only [encode, sampleWords, cwOp_mkCw]; rfl⟩

theorem fskRxch (c : Fin 2) : Statement (.fskRxch c) := fun _ =>
  ⟨allocated_of (by decide), fieldsOk_of ⟨0x42, .below 2, .zero⟩ (by decide) (below_sel c (by decide)) (rfl) (.inl (by decide)),
    by
      simp only [encode, argWords, cwOp_mkCw]; rfl,
    by
      simp only [encode, sampleWords, cwOp_mkCw]; rfl⟩

theorem fskTxen (e : Bool) : Statement (.fskTxen e) := fun _ =>
  ⟨allocated_of (by decide), fieldsOk_of ⟨0x43, .zero, .below 2⟩ (by decide) (rfl) (below_of (bitImm_lt e)) (.inl (by decide)),
    by
      simp only [encode, argWords, cwOp_mkCw]; rfl,
    by
      simp only [encode, sampleWords, cwOp_mkCw]; rfl⟩

theorem fskTx (count : BitVec 16) : Statement (.fskTx count) := fun _ =>
  ⟨allocated_of (by decide), fieldsOk_of ⟨0x44, .zero, .any⟩ (by decide) (rfl) (rfl) (.inl (by decide)),
    by
      simp only [encode, argWords, cwOp_mkCw]; rfl,
    by
      simp only [encode, sampleWords, cwOp_mkCw]; rfl⟩

theorem fskRx (xs : List Word) : Statement (.fskRx xs) := fun h =>
  ⟨allocated_of (by decide), fieldsOk_of ⟨0x45, .zero, .any⟩ (by decide) (rfl) (rfl) (.inl (by decide)),
    by
      simp only [encode, argWords, cwOp_mkCw]; rfl,
    by
      simp only [encode, sampleWords, cwOp_mkCw, cwImm_mkCw]
      exact (countImm_toNat xs h).symm⟩

theorem txByte (b : Byte) : Statement (.txByte b) := fun _ =>
  ⟨allocated_of (by decide), fieldsOk_of ⟨0x46, .zero, .below 256⟩ (by decide) (rfl) (below_of (byteImm_lt b)) (.inl (by decide)),
    by
      simp only [encode, argWords, cwOp_mkCw]; rfl,
    by
      simp only [encode, sampleWords, cwOp_mkCw]; rfl⟩

theorem dataPopTxBit : Statement .dataPopTxBit := fun _ =>
  ⟨allocated_of (by decide), fieldsOk_of ⟨0x47, .zero, .zero⟩ (by decide) (rfl) (rfl) (.inl (by decide)),
    by
      simp only [encode, argWords, cwOp_mkCw]; rfl,
    by
      simp only [encode, sampleWords, cwOp_mkCw]; rfl⟩

theorem dataPushRxBit (b : Bool) : Statement (.dataPushRxBit b) := fun _ =>
  ⟨allocated_of (by decide), fieldsOk_of ⟨0x48, .zero, .below 2⟩ (by decide) (rfl) (below_of (bitImm_lt b)) (.inl (by decide)),
    by
      simp only [encode, argWords, cwOp_mkCw]; rfl,
    by
      simp only [encode, sampleWords, cwOp_mkCw]; rfl⟩

theorem role_tone {role : Role} {tone : BitVec 16} (h : (Instr.v8Start role tone).wellFormed = true) :
    (0x50#8).toNat ≠ 0x50 ∨ (roleSel role).toNat ≠ 1 ∨ tone.toNat = 0 := by
  cases role with
  | send => exact .inr (.inl (by decide))
  | listen => exact .inr (.inr (by simpa [Instr.wellFormed, roleToneOk] using congrArg BitVec.toNat (of_decide_eq_true h)))

theorem v8Start (role : Role) (tone : BitVec 16) : Statement (.v8Start role tone) := fun h =>
  ⟨allocated_of (by decide), fieldsOk_of ⟨0x50, .below 2, .any⟩ (by decide) (below_of (roleSel_lt role)) (rfl) (role_tone h),
    by
      simp only [encode, argWords, cwOp_mkCw]; rfl,
    by
      simp only [encode, sampleWords, cwOp_mkCw]; rfl⟩

theorem v8Stop : Statement .v8Stop := fun _ =>
  ⟨allocated_of (by decide), fieldsOk_of ⟨0x51, .zero, .zero⟩ (by decide) (rfl) (rfl) (.inl (by decide)),
    by
      simp only [encode, argWords, cwOp_mkCw]; rfl,
    by
      simp only [encode, sampleWords, cwOp_mkCw]; rfl⟩

theorem v8AddCap (item : Byte) : Statement (.v8AddCap item) := fun _ =>
  ⟨allocated_of (by decide), fieldsOk_of ⟨0x52, .zero, .below 256⟩ (by decide) (rfl) (below_of (byteImm_lt item)) (.inl (by decide)),
    by
      simp only [encode, argWords, cwOp_mkCw]; rfl,
    by
      simp only [encode, sampleWords, cwOp_mkCw]; rfl⟩

theorem v8GetTxcaps : Statement .v8GetTxcaps := fun _ =>
  ⟨allocated_of (by decide), fieldsOk_of ⟨0x53, .zero, .zero⟩ (by decide) (rfl) (rfl) (.inl (by decide)),
    by
      simp only [encode, argWords, cwOp_mkCw]; rfl,
    by
      simp only [encode, sampleWords, cwOp_mkCw]; rfl⟩

theorem v8GetRxcaps : Statement .v8GetRxcaps := fun _ =>
  ⟨allocated_of (by decide), fieldsOk_of ⟨0x54, .zero, .zero⟩ (by decide) (rfl) (rfl) (.inl (by decide)),
    by
      simp only [encode, argWords, cwOp_mkCw]; rfl,
    by
      simp only [encode, sampleWords, cwOp_mkCw]; rfl⟩

theorem v8Tx (count : BitVec 16) : Statement (.v8Tx count) := fun _ =>
  ⟨allocated_of (by decide), fieldsOk_of ⟨0x55, .zero, .any⟩ (by decide) (rfl) (rfl) (.inl (by decide)),
    by
      simp only [encode, argWords, cwOp_mkCw]; rfl,
    by
      simp only [encode, sampleWords, cwOp_mkCw]; rfl⟩

theorem v8Rx (xs : List Word) : Statement (.v8Rx xs) := fun h =>
  ⟨allocated_of (by decide), fieldsOk_of ⟨0x56, .zero, .any⟩ (by decide) (rfl) (rfl) (.inl (by decide)),
    by
      simp only [encode, argWords, cwOp_mkCw]; rfl,
    by
      simp only [encode, sampleWords, cwOp_mkCw, cwImm_mkCw]
      exact (countImm_toNat xs h).symm⟩

theorem v8PopTxBit : Statement .v8PopTxBit := fun _ =>
  ⟨allocated_of (by decide), fieldsOk_of ⟨0x57, .zero, .zero⟩ (by decide) (rfl) (rfl) (.inl (by decide)),
    by
      simp only [encode, argWords, cwOp_mkCw]; rfl,
    by
      simp only [encode, sampleWords, cwOp_mkCw]; rfl⟩

theorem v8PushRxBit (b : Bool) : Statement (.v8PushRxBit b) := fun _ =>
  ⟨allocated_of (by decide), fieldsOk_of ⟨0x58, .zero, .below 2⟩ (by decide) (rfl) (below_of (bitImm_lt b)) (.inl (by decide)),
    by
      simp only [encode, argWords, cwOp_mkCw]; rfl,
    by
      simp only [encode, sampleWords, cwOp_mkCw]; rfl⟩

theorem restart (t : Byte) : Statement (.restart t) := fun _ =>
  ⟨allocated_of (by decide), fieldsOk_of ⟨0x60, .any, .zero⟩ (by decide) (rfl) (rfl) (.inl (by decide)),
    by
      simp only [encode, argWords, cwOp_mkCw]; rfl,
    by
      simp only [encode, sampleWords, cwOp_mkCw]; rfl⟩

theorem isOnHook : Statement .isOnHook := fun _ =>
  ⟨allocated_of (by decide), fieldsOk_of ⟨0x61, .zero, .zero⟩ (by decide) (rfl) (rfl) (.inl (by decide)),
    by
      simp only [encode, argWords, cwOp_mkCw]; rfl,
    by
      simp only [encode, sampleWords, cwOp_mkCw]; rfl⟩

theorem setOnHook : Statement .setOnHook := fun _ =>
  ⟨allocated_of (by decide), fieldsOk_of ⟨0x62, .zero, .zero⟩ (by decide) (rfl) (rfl) (.inl (by decide)),
    by
      simp only [encode, argWords, cwOp_mkCw]; rfl,
    by
      simp only [encode, sampleWords, cwOp_mkCw]; rfl⟩

theorem setOffHook (t : Byte) : Statement (.setOffHook t) := fun _ =>
  ⟨allocated_of (by decide), fieldsOk_of ⟨0x63, .any, .zero⟩ (by decide) (rfl) (rfl) (.inl (by decide)),
    by
      simp only [encode, argWords, cwOp_mkCw]; rfl,
    by
      simp only [encode, sampleWords, cwOp_mkCw]; rfl⟩

theorem pull (count : BitVec 16) : Statement (.pull count) := fun _ =>
  ⟨allocated_of (by decide), fieldsOk_of ⟨0x64, .zero, .any⟩ (by decide) (rfl) (rfl) (.inl (by decide)),
    by
      simp only [encode, argWords, cwOp_mkCw]; rfl,
    by
      simp only [encode, sampleWords, cwOp_mkCw]; rfl⟩

theorem push (xs : List Word) : Statement (.push xs) := fun h =>
  ⟨allocated_of (by decide), fieldsOk_of ⟨0x65, .zero, .any⟩ (by decide) (rfl) (rfl) (.inl (by decide)),
    by
      simp only [encode, argWords, cwOp_mkCw]; rfl,
    by
      simp only [encode, sampleWords, cwOp_mkCw, cwImm_mkCw]
      exact (countImm_toNat xs h).symm⟩

theorem serialBit (b : Bool) : Statement (.serialBit b) := fun _ =>
  ⟨allocated_of (by decide), fieldsOk_of ⟨0x66, .zero, .below 2⟩ (by decide) (rfl) (below_of (bitImm_lt b)) (.inl (by decide)),
    by
      simp only [encode, argWords, cwOp_mkCw]; rfl,
    by
      simp only [encode, sampleWords, cwOp_mkCw]; rfl⟩

theorem timerFire (w : Timer) : Statement (.timerFire w) := fun _ =>
  ⟨allocated_of (by decide), fieldsOk_of ⟨0x67, .below 2, .zero⟩ (by decide) (below_of (timerSel_lt w)) (rfl) (.inl (by decide)),
    by
      simp only [encode, argWords, cwOp_mkCw]; rfl,
    by
      simp only [encode, sampleWords, cwOp_mkCw]; rfl⟩

end Sys2Proof.Laws.Encodes
end

