-- ==== Sys2Proof/Tests/Slice0.lean ====
section
/-! SUPPORT. Our own tests: ill-formed terms that the checks refuse, words written out from the operation map, the tables against
the sums the spec gives, one step per instruction against the examples of its rule, and for every obligation with hypotheses a
state and operands that meet them. The source of every expected value is the rule or the vector table that the comment names. -/

namespace Sys2Proof.Tests

open Sys2Proof.Machine

/-! ### Helpers -/

/-- The decoder reads `i` from the frame. -/
def decodesTo (cw : Word) (args samples : List Word) (i : Instr) : Bool :=
  match decode ⟨cw, args, samples⟩ with
  | .ok j => decide (j = i)
  | .error _ => false

/-- The decoder rejects the frame for this reason. -/
def rejects (cw : Word) (args samples : List Word) (e : DecodeError) : Bool :=
  match decode ⟨cw, args, samples⟩ with
  | .ok _ => false
  | .error d => decide (d = e)

/-- The words the host sees after one step on one command: status, results, output samples, events. -/
def answer (cw : Word) (args samples : List Word) (s : State) : Option (List Word) :=
  match step { s with pending := [⟨cw, args, samples⟩] } with
  | .next t => some (responseWords t.resp)
  | .fault _ => none
  | .refused _ => none

/-- The state after one step on one command. -/
def after (cw : Word) (args samples : List Word) (s : State) : State :=
  match step { s with pending := [⟨cw, args, samples⟩] } with
  | .next t => t
  | .fault _ => s
  | .refused _ => s

/-- The reset state with other V.8 registers. -/
def withV8 (v : V8Regs) : State := { State.reset with v8 := v }

/-- The reset state with other call-state registers. -/
def inCall (c : CallState) (timers : BitVec 2) : State := { State.reset with callState := c, timerPend := timers }

/-- The reset state with V21 selected, without its tables. -/
def withV21 (txen : Bool) : State := { State.reset with fsk := ⟨1#8, 2#2, 0#1, 1#1, txen⟩ }

/-- The reset state with one codec changed. -/
def withCodec (k : Nat) (c : Codec) : State := State.reset.setCodec k c

/-! ### Well-formedness -/

theorem test_wellFormed_count_refused : (Instr.gzAcc 0 (List.replicate 65536 0#32)).wellFormed = false := by
  simp only [Instr.wellFormed, countFits, List.length_replicate]; decide

theorem test_wellFormed_count_accepted : (Instr.gzAcc 0 (List.replicate 65535 0#32)).wellFormed = true := by
  simp only [Instr.wellFormed, countFits, List.length_replicate]; decide

theorem test_wellFormed_detCfg_refused : (Instr.detCfg (List.replicate 65536 0#32)).wellFormed = false := by
  simp only [Instr.wellFormed, countFits, List.length_replicate]; decide

theorem test_wellFormed_roleTone_refused : (Instr.v8Start .listen 0x13#16).wellFormed = false := by decide

theorem test_wellFormed_roleTone_accepted : (Instr.v8Start .listen 0#16).wellFormed = true := by decide

/-! ### Decoding: a word of every row, written out from `spec/30_encoding.md` R101: `op` 31..24, `sel` 23..16, `imm` 15..0 -/

theorem test_decode_nop : decodesTo 0x00000000#32 [] [] .nop = true := by decide
theorem test_decode_reset : decodesTo 0x01000000#32 [] [] .reset = true := by decide
theorem test_decode_setRate : decodesTo 0x02000000#32 [0x1F40#32] [] (.setRate 8000#32) = true := by decide
theorem test_decode_getRate : decodesTo 0x03000000#32 [] [] .getRate = true := by decide
theorem test_decode_rdReg : decodesTo 0x040F0100#32 [] [] (.rdReg 15#8 0x0100#16) = true := by decide
theorem test_decode_rdMem : decodesTo 0x05090152#32 [] [] (.rdMem 9#8 0x0152#16) = true := by decide
theorem test_decode_phaseInc : decodesTo 0x10000000#32 [0x186A0#32] [] (.phaseInc 100000#32) = true := by decide
theorem test_decode_phaseInv : decodesTo 0x11000000#32 [] [] .phaseInv = true := by decide
theorem test_decode_sine : decodesTo 0x12000000#32 [0xC0000000#32] [] (.sine 0xC0000000#32) = true := by decide
theorem test_decode_gzInit : decodesTo 0x13030100#32 [0x12CC8#32] [] (.gzInit 3 256#16 77000#32) = true := by decide
theorem test_decode_gzAcc : decodesTo 0x14050003#32 [] [0#32, 707#32, 1000#32] (.gzAcc 5 [0#32, 707#32, 1000#32]) = true := by
  decide
theorem test_decode_gzPower : decodesTo 0x150F0000#32 [] [] (.gzPower 15) = true := by decide
theorem test_decode_iqBuild : decodesTo 0x16030200#32 [0x30D40#32] [] (.iqBuild 3 512#16 200000#32) = true := by decide
theorem test_decode_correlate_inPhase : decodesTo 0x17020000#32 [508#32] [] (.correlate 2 .inPhase 508#32) = true := by decide
theorem test_decode_correlate_quadrature :
    decodesTo 0x17070000#32 [8#32] [] (.correlate 3 .quadrature 8#32) = true := by decide
theorem test_decode_frmCfg : decodesTo 0x20010001#32 [] [] (.frmCfg 1 .msbFirst) = true := by decide
theorem test_decode_frmLoad : decodesTo 0x21000055#32 [] [] (.frmLoad 0 0x55#8) = true := by decide
theorem test_decode_frmPop : decodesTo 0x22020000#32 [] [] (.frmPop 2) = true := by decide
theorem test_decode_frmPush : decodesTo 0x23020001#32 [] [] (.frmPush 2 true) = true := by decide
theorem test_decode_frmReset : decodesTo 0x24010000#32 [] [] (.frmReset 1) = true := by decide
theorem test_decode_toneStart :
    decodesTo 0x3005FFFF#32 [0xFFFFFFFF#32, 0x4000#32] [] (.toneStart 5#8 0xFFFF#16 0xFFFFFFFF#32 0x4000#32) = true := by decide
theorem test_decode_toneStartF :
    decodesTo 0x31000000#32 [100000#32, 0#32, 3#32, 0x4000#32] [] (.toneStartF 100000#32 0#32 3#32 0x4000#32) = true := by
  decide
theorem test_decode_toneTx : decodesTo 0x32000004#32 [] [] (.toneTx 4#16) = true := by decide
theorem test_decode_toneStop : decodesTo 0x33000000#32 [] [] .toneStop = true := by decide
theorem test_decode_detCfg : decodesTo 0x34000002#32 [0x13#32, 0x17#32] [] (.detCfg [0x13#32, 0x17#32]) = true := by decide
theorem test_decode_detSingle : decodesTo 0x35000002#32 [] [1#32, 2#32] (.detSingle [1#32, 2#32]) = true := by decide
theorem test_decode_detDual : decodesTo 0x36000001#32 [] [0xFFFF8000#32] (.detDual [0xFFFF8000#32]) = true := by decide
theorem test_decode_detReset : decodesTo 0x37000000#32 [] [] .detReset = true := by decide
theorem test_decode_fskSelect : decodesTo 0x40040000#32 [] [] (.fskSelect 4#8) = true := by decide
theorem test_decode_fskTxch : decodesTo 0x41010000#32 [] [] (.fskTxch 1) = true := by decide
theorem test_decode_fskRxch : decodesTo 0x42000000#32 [] [] (.fskRxch 0) = true := by decide
theorem test_decode_fskTxen : decodesTo 0x43000001#32 [] [] (.fskTxen true) = true := by decide
theorem test_decode_fskTx : decodesTo 0x44000008#32 [] [] (.fskTx 8#16) = true := by decide
theorem test_decode_fskRx : decodesTo 0x45000001#32 [] [7#32] (.fskRx [7#32]) = true := by decide
theorem test_decode_txByte : decodesTo 0x46000041#32 [] [] (.txByte 0x41#8) = true := by decide
theorem test_decode_dataPopTxBit : decodesTo 0x47000000#32 [] [] .dataPopTxBit = true := by decide
theorem test_decode_dataPushRxBit : decodesTo 0x48000001#32 [] [] (.dataPushRxBit true) = true := by decide
theorem test_decode_v8Start_send : decodesTo 0x50000013#32 [] [] (.v8Start .send 0x13#16) = true := by decide
theorem test_decode_v8Start_listen : decodesTo 0x50010000#32 [] [] (.v8Start .listen 0#16) = true := by decide
theorem test_decode_v8Stop : decodesTo 0x51000000#32 [] [] .v8Stop = true := by decide
theorem test_decode_v8AddCap : decodesTo 0x52000016#32 [] [] (.v8AddCap 0x16#8) = true := by decide
theorem test_decode_v8GetTxcaps : decodesTo 0x53000000#32 [] [] .v8GetTxcaps = true := by decide
theorem test_decode_v8GetRxcaps : decodesTo 0x54000000#32 [] [] .v8GetRxcaps = true := by decide
theorem test_decode_v8Tx : decodesTo 0x55000004#32 [] [] (.v8Tx 4#16) = true := by decide
theorem test_decode_v8Rx : decodesTo 0x56000002#32 [] [1#32, 2#32] (.v8Rx [1#32, 2#32]) = true := by decide
theorem test_decode_v8PopTxBit : decodesTo 0x57000000#32 [] [] .v8PopTxBit = true := by decide
theorem test_decode_v8PushRxBit : decodesTo 0x58000000#32 [] [] (.v8PushRxBit false) = true := by decide
theorem test_decode_restart : decodesTo 0x60120000#32 [] [] (.restart 0x12#8) = true := by decide
theorem test_decode_isOnHook : decodesTo 0x61000000#32 [] [] .isOnHook = true := by decide
theorem test_decode_setOnHook : decodesTo 0x62000000#32 [] [] .setOnHook = true := by decide
theorem test_decode_setOffHook : decodesTo 0x63110000#32 [] [] (.setOffHook 0x11#8) = true := by decide
theorem test_decode_pull : decodesTo 0x64000004#32 [] [] (.pull 4#16) = true := by decide
theorem test_decode_push : decodesTo 0x65000001#32 [] [3#32] (.push [3#32]) = true := by decide
theorem test_decode_serialBit : decodesTo 0x66000001#32 [] [] (.serialBit true) = true := by decide
theorem test_decode_timerFire : decodesTo 0x67010000#32 [] [] (.timerFire .preData) = true := by decide

/-- The `ILLEGAL` words of `spec/95_test_vectors.md` part 2.1: an operation code that is not allocated. -/
theorem test_decode_unallocated :
    [0x06000000#32, 0x07000000#32, 0x18000000#32, 0x25000000#32, 0x38000000#32, 0x49000000#32, 0x59000000#32, 0x68000000#32,
      0xFF000000#32].all (fun cw => rejects cw [] [] .unallocatedOp) = true := by decide

/-- The `ILLEGAL` words of the same part: a field the operation does not take. -/
theorem test_decode_illegalField :
    [0x00000001#32, 0x00010000#32, 0x11000001#32, 0x13100100#32, 0x16040008#32, 0x17080000#32, 0x20000002#32, 0x21000100#32,
      0x23030000#32, 0x24030000#32, 0x23020002#32].all (fun cw => rejects cw [] [] .illegalField) = true ∧
    [0x41020000#32, 0x43000002#32, 0x46000100#32, 0x50010013#32, 0x52000100#32, 0x61010000#32, 0x66000002#32,
      0x67020000#32].all (fun cw => rejects cw [] [] .illegalField) = true := by decide

theorem test_decode_wordCount : rejects 0x12000000#32 [] [] .wordCount = true := by decide

/-- The number of an instruction with an argument word: the second word's bits are 63..32. -/
theorem test_decodeTableWord : decodeTableWord 64 0x00012CC813030100 = some (.gzInit 3 256#16 77000#32) := by decide

theorem test_decodeTableWord_short : decodeTableWord 32 0x13030100 = some (.gzInit 3 256#16 0#32) := by decide

/-! ### Tables -/

/-- `spec/20_memory.md` R75: the sum of the first quarter, 257 entries. -/
theorem test_sineRom_quarterSum : ((List.range 257).map sineRom).sum = 2678373 := by decide +kernel

/-- R75: the sum of all entries. -/
theorem test_sineRom_sum : ((List.range 1024).map sineRom).sum = 0 := by decide +kernel

/-- R75: the sum of their squares. -/
theorem test_sineRom_squares : ((List.range 1024).map (fun k => sineRom k * sineRom k)).sum = 137439918908 := by
  decide +kernel

/-- R75: the fold of all entries. -/
theorem test_sineRom_fold :
    (List.range 1024).foldl (fun (ck : Word) k => ck * 31#32 + (BitVec.ofInt 16 (sineRom k)).setWidth 32) 0#32 = 0x8DBC8000#32 := by
  decide +kernel

/-- `spec/30_encoding.md` R99: `code << 24 | a << 16 | b`. -/
theorem test_eventWords :
    eventWord (.toneDone 0x19#8) = 0x01190000#32 ∧ eventWord (.v8State .waitCm .sentJm) = 0x02050006#32 ∧
    eventWord (.rxByte 0x48#8) = 0x03000048#32 ∧ eventWord (.timerReq .preData) = 0x04010000#32 := by decide

/-- `spec/44_v8_engine.md` R271, R273: a menu and its checksum. -/
theorem test_menu : menuOctets [0x16#8, 0x21#8, 0x44#8, 0x51#8] = [0xC1#8, 0x45#8, 0x10#8, 0x90#8, 0x2A#8] := by
  decide +kernel

theorem test_menuChecksum : menuChecksum [0xC1#8, 0x45#8, 0x10#8, 0x90#8, 0x2A#8] = 0x13479EA1#32 := by decide

/-! ### One step of each instruction, against the example of its rule or a vector of `spec/95_test_vectors.md` part 2 -/

/-- R310. -/
theorem test_nop : answer 0x00000000#32 [] [] State.reset = some [0#32] := by decide

/-- R357: a malformed word answers `ILLEGAL`. -/
theorem test_illegal : answer 0x00000001#32 [] [] State.reset = some [2#32] := by decide

/-- R311: the rate is at its reset value again. -/
theorem test_reset : (after 0x01000000#32 [] [] { State.reset with srate := 8000#32 }).srate = 16000#32 := by decide

/-- R312, and vector 2.2: the rate set, `FRM_ORDER` and `V8_NTX` cleared. -/
theorem test_setRate :
    let t := after 0x02000000#32 [8000#32] [] ((withV8 { V8Regs.reset with ntx := 1#5 }).setCodec 1 { Codec.reset with order := .msbFirst })
    t.srate = 8000#32 ∧ t.v8.ntx = 0#5 ∧ (t.codecAt 1).order = .lsbFirst := by decide

/-- R312: rate 0 is `FAIL`. -/
theorem test_setRate_zero : answer 0x02000000#32 [0#32] [] State.reset = some [1#32] := by decide

/-- R313. -/
theorem test_getRate : answer 0x03000000#32 [] [] State.reset = some [0#32, 0x3E80#32] := by decide

/-- Vectors 2.2: `FRM_BFRAME[0]` after reset. -/
theorem test_rdReg : answer 0x04000201#32 [] [] State.reset = some [0#32, 0x3FF#32] := by decide

/-- Vectors 2.2: `GZ_COEFF[16]` is `FAIL`, not `ILLEGAL`. -/
theorem test_rdReg_index : answer 0x04100100#32 [] [] State.reset = some [1#32] := by decide

/-- Vectors 2.2: `SINE_ROM[768]`, sign-extended. -/
theorem test_rdMem_sine : answer 0x05000300#32 [] [] State.reset = some [0#32, 0xFFFFC000#32] := by decide

/-- Vectors 2.2: `FSK_ROM` scheme 1 field 4, -10000 cHz. -/
theorem test_rdMem_fsk : answer 0x050A0014#32 [] [] State.reset = some [0#32, 0xFFFFD8F0#32] := by decide

/-- Vectors 2.3: 770 Hz at 16000 Hz. -/
theorem test_phaseInc : answer 0x10000000#32 [0x12CC8#32] [] State.reset = some [0#32, 0x0C51EB85#32] := by decide

/-- Vectors 2.3: the largest frequency aliases. -/
theorem test_phaseInc_alias : answer 0x10000000#32 [0xFFFFFFFF#32] [] State.reset = some [0#32, 0x5AC46738#32] := by decide

/-- R145. -/
theorem test_phaseInv : answer 0x11000000#32 [] [] State.reset = some [0#32, 0x80000000#32] := by decide

/-- Vectors 2.3: index 72. -/
theorem test_sine : answer 0x12000000#32 [0x12345678#32] [] State.reset = some [0#32, 0x1B5D#32] := by decide

/-- Vectors 2.3: -101. -/
theorem test_sine_negative : answer 0x12000000#32 [0xFFFFFFFF#32] [] State.reset = some [0#32, 0xFFFFFF9B#32] := by decide

/-- Vectors 2.3. -/
theorem test_gzInit : answer 0x13030100#32 [0x12CC8#32] [] State.reset = some [0#32, 0x7A7E#32] := by decide

theorem test_gzInit_zero : answer 0x13030000#32 [0x12CC8#32] [] State.reset = some [1#32] := by decide

/-- Vectors 2.3: three samples of unit 5. -/
theorem test_gzAcc :
    let s := State.reset.setGz 5 ⟨0x5A82#32, 8#16, 0#16, 0#64, 0#64⟩
    answer 0x14050003#32 [] [0#32, 707#32, 1000#32] s = some [0#32, 0#32, 3#32] ∧
    ((after 0x14050003#32 [] [0#32, 707#32, 1000#32] s).gzAt 5).s1 = 0x7CF#64 ∧
    ((after 0x14050003#32 [] [0#32, 707#32, 1000#32] s).gzAt 5).s2 = 0x2C3#64 := by decide

/-- Vectors 2.3: the block completes after five samples, the rest is not consumed. -/
theorem test_gzAcc_complete :
    let s := State.reset.setGz 5 ⟨0x5A82#32, 8#16, 3#16, 0x7CF#64, 0x2C3#64⟩
    let x : List Word := [707#32, 0#32, 0xFFFFFD3D#32, 0xFFFFFC18#32, 0xFFFFFD3D#32, 7#32, 7#32, 7#32]
    answer 0x14050008#32 [] x s = some [0#32, 1#32, 5#32] ∧
    ((after 0x14050008#32 [] x s).gzAt 5).s1 = 0xFFFFFFFFFFFFE9E9#64 := by decide

/-- Vectors 2.3: an early read clears nothing. -/
theorem test_gzPower_early :
    let s := State.reset.setGz 5 ⟨0x5A82#32, 8#16, 3#16, 0x7CF#64, 0x2C3#64⟩
    answer 0x15050000#32 [] [] s = some [0#32, 0x00261D4C#32, 0#32] ∧ ((after 0x15050000#32 [] [] s).gzAt 5).cnt = 3#16 := by
  decide

/-- Vectors 2.3: the power of the complete block; count and taps cleared, coefficient and size kept. -/
theorem test_gzPower :
    let s := State.reset.setGz 5 ⟨0x5A82#32, 8#16, 8#16, 0xFFFFFFFFFFFFE9E9#64, 0xFFFFFFFFFFFFF060#64⟩
    answer 0x15050000#32 [] [] s = some [0#32, 0x00F3F151#32, 0#32] ∧
    (after 0x15050000#32 [] [] s).gzAt 5 = ⟨0x5A82#32, 8#16, 0#16, 0#64, 0#64⟩ := by decide

/-- Vectors 2.3: eight entries of 2000 Hz in table 0. -/
theorem test_iqBuild :
    let t := (after 0x16000008#32 [0x30D40#32] [] State.reset).iqAt 0
    (ramTake t.i 8).map BitVec.toInt = [16384, 11585, 0, -11585, -16384, -11585, 0, 11585] ∧
    (ramTake t.q 8).map BitVec.toInt = [0, 11585, 16384, 11585, 0, -11585, -16384, -11585] ∧ t.len = 8#16 := by decide

theorem test_iqBuild_tooLong : answer 0x16000201#32 [0x30D40#32] [] State.reset = some [1#32] := by decide

/-- A ring of channel 0 that starts with the cycle of vectors 2.3, and table 0 of 2000 Hz. -/
def ringState : State :=
  (buildIq 0 200000 8 State.reset).setChan 0
    { FskChannel.reset with
      ring := ramFill [] 0 ([0, 707, 1000, 707, 0, -707, -1000, -707].map (BitVec.ofInt 32)) }

/-- Vectors 2.3: component Q in phase. -/
theorem test_correlate : answer 0x17040000#32 [0#32] [] ringState = some [0#32, 0xF9F#32, 0#32] := by decide

/-- Vectors 2.3: the window runs past the end of the ring, `start & 511`. -/
theorem test_correlate_wrap : answer 0x17040000#32 [1020#32] [] ringState = some [0#32, 0xFFFFF830#32, 0xFFFFFFFF#32] := by
  decide

/-- R167. -/
theorem test_frmCfg : ((after 0x20010001#32 [] [] State.reset).codecAt 1).order = .msbFirst := by decide

/-- Vectors 2.4. -/
theorem test_frmLoad :
    ((after 0x21000055#32 [] [] State.reset).codecAt 0).bframe = 0x155#10 ∧
    ((after 0x21000055#32 [] [] State.reset).codecAt 0).bn = 10#4 := by decide

/-- Vectors 2.4: a busy builder. -/
theorem test_frmLoad_busy : answer 0x21000041#32 [] [] (withCodec 0 { Codec.reset with bn := 1#4 }) = some [1#32] := by decide

/-- Vectors 2.4: the second bit of the frame of 0x55. -/
theorem test_frmPop : answer 0x22000000#32 [] [] (withCodec 0 { Codec.reset with bframe := 0x155#10, bn := 9#4 }) =
    some [0#32, 1#32] := by decide

/-- Vectors 2.4: idle. -/
theorem test_frmPop_idle : answer 0x22000000#32 [] [] State.reset = some [0#32, 1#32] := by decide

/-- R170: the tenth bit of 0x41. -/
theorem test_frmPush :
    answer 0x23020001#32 [] [] (withCodec 2 { Codec.reset with pst := .stop, pacc := 0x41#8 }) = some [0#32, 1#32, 0x41#32] := by
  decide

/-- R170, R171: a data bit, most significant first. -/
theorem test_frmPush_data :
    ((after 0x23020001#32 [] [] (withCodec 2 { Codec.reset with order := .msbFirst, pst := .data, pk := 1#3 })).codecAt 2).pacc =
      0x40#8 := by decide

/-- R171: the order is kept. -/
theorem test_frmReset :
    (after 0x24020000#32 [] [] (withCodec 2 ⟨.msbFirst, 0#10, 3#4, .data, 1#3, 1#8⟩)).codecAt 2 =
      ⟨.msbFirst, 0x3FF#10, 0#4, .idle, 0#3, 0#8⟩ := by decide

/-- R190: DTMF 5, indefinite. -/
theorem test_toneStart :
    let t := (after 0x3005FFFF#32 [0xFFFFFFFF#32, 0x4000#32] [] State.reset).tone
    t.inc1 = 0x0C51EB85#32 ∧ t.inc2 = 0x15604189#32 ∧ t.finite = false := by decide

/-- R190: CNG, default duration. -/
theorem test_toneStart_finite :
    let t := (after 0x3018FFFF#32 [0#32, 0x4000#32] [] State.reset).tone
    t.finite = true ∧ t.left = 8000#32 := by decide

/-- R191: a tone of no samples is done at once. -/
theorem test_toneStartF_empty : answer 0x31000000#32 [100000#32, 0#32, 0#32, 0x4000#32] [] State.reset =
    some [0#32, 0x01000000#32] := by decide

/-- R191's example: the tone of three samples, and its end. -/
theorem test_toneTx_end :
    let s := { State.reset with tone := toneFreqRegs 16000#32 100000#32 0#32 3#32 0x4000#32 }
    answer 0x32000005#32 [] [] s = some [0#32, 0#32, 6270#32, 11585#32, 0#32, 0#32, 0x01000000#32] := by decide

/-- R192's example: DTMF 5. -/
theorem test_toneTx :
    answer 0x32000004#32 [] [] { State.reset with tone := toneLoadRegs 16000#32 5#8 0xFFFFFFFF#32 0x4000#32 0xFFFF#16 } =
      some [0#32, 0#32, 13015#32, 23475#32, 29238#32] := by decide

/-- R193. -/
theorem test_toneStop :
    (after 0x33000000#32 [] [] { State.reset with tone := { ToneTx.reset with active := true, id := 5#8 } }).tone =
      ToneTx.reset := by decide

/-- R208's example. -/
theorem test_detCfg :
    let t := after 0x34000002#32 [0x13#32, 0x17#32] [] State.reset
    t.det.n = 2#5 ∧ t.det.na = 2#4 ∧ t.det.nb = 0#4 ∧ (t.gzAt 0).coeff = 0x55F6#32 ∧ (t.gzAt 1).coeff = 0x6F60#32 := by decide

theorem test_detCfg_invalid : answer 0x34000001#32 [0x1B#32] [] State.reset = some [1#32] := by decide

/-- R204: with no candidates every sample is discarded. -/
theorem test_detSingle_off : answer 0x35000002#32 [] [1#32, 2#32] State.reset = some [0#32, 0#32, 0#32, 2#32] := by decide

/-- R209: inside a block; R207: the reported tone is that of the last block. -/
theorem test_detSingle :
    let s := { State.reset with det := { Detector.reset with n := 2#5, na := 2#4, fill := 98#16, cand := 0x13#8 } }
    answer 0x35000002#32 [] [1#32, 2#32] s = some [0#32, 1#32, 0x13#32, 2#32] ∧
    (after 0x35000002#32 [] [1#32, 2#32] s).det.fill = 100#16 := by decide

/-- R204: the block ends inside the call; a silent block is no tone. -/
theorem test_detDual :
    let s := { State.reset with det := { Detector.reset with n := 2#5, na := 2#4, fill := 255#16, cand := 5#8, hits := 7#32 } }
    answer 0x36000002#32 [] [0#32, 2#32] s = some [0#32, 0#32, 0#32, 1#32] ∧
    (after 0x36000002#32 [] [0#32, 2#32] s).det.fill = 0#16 ∧ (after 0x36000002#32 [] [0#32, 2#32] s).det.hits = 0#32 := by
  decide

/-- R211's example. -/
theorem test_detReset :
    let s := { State.reset with det := { Detector.reset with n := 2#5, na := 2#4, fill := 100#16, cand := 0x13#8, hits := 1#32 } }
    (after 0x37000000#32 [] [] s).det = { Detector.reset with n := 2#5, na := 2#4 } := by decide

/-- R225's example: BELL202. -/
theorem test_fskSelect :
    let t := after 0x40040000#32 [] [] State.reset
    t.fsk.nch = 1#2 ∧ (t.chanAt 0).symlen = 13#16 ∧ (t.chanAt 0).inc1 = 0x13333333#32 ∧ (t.chanAt 0).shift = 3#4 := by decide

theorem test_fskSelect_absent : answer 0x40070000#32 [] [] State.reset = some [1#32] := by decide

/-- R226's example. -/
theorem test_fskTxch : (after 0x41010000#32 [] [] (withV21 false)).fsk.txch = 1#1 := by decide

theorem test_fskTxch_absent : answer 0x41000000#32 [] [] State.reset = some [1#32] := by decide

/-- R227's example. -/
theorem test_fskRxch : (after 0x42000000#32 [] [] (withV21 false)).fsk.rxch = 0#1 := by decide

/-- R228's example. -/
theorem test_fskTxen : (after 0x43000001#32 [] [] State.reset).fsk.txen = true := by decide

/-- R231's example: idle mark on channel 0, 980 Hz. -/
theorem test_fskTx :
    answer 0x44000004#32 [] [] ((withV21 true).setChan 0 { FskChannel.reset with inc1 := phaseIncrement 98000 16000 }) =
      some [0#32, 0#32, 6084#32, 11370#32, 14978#32] := by decide

/-- R233: the sample stored, shifted. -/
theorem test_fskRx :
    ramRead ((after 0x45000001#32 [] [5656#32] ((withV21 false).setChan 1 { FskChannel.reset with shift := 3#4 })).chanAt 1).ring 0 =
      707#32 := by decide

/-- R241's example. -/
theorem test_txByte :
    (after 0x46000041#32 [] [] State.reset).txq.count = 1#7 ∧
    ramRead (after 0x46000041#32 [] [] State.reset).txq.mem 0 = 0x41#8 := by decide

/-- R241: the 65th byte. -/
theorem test_txByte_full : answer 0x46000041#32 [] [] { State.reset with txq := ⟨[], 3#6, 64#7⟩ } = some [1#32] := by decide

/-- R245: the start bit of a queued byte; the queue is one byte shorter. -/
theorem test_dataPopTxBit :
    let s := { State.reset with txq := ⟨[(0, 0x41#8)], 0#6, 1#7⟩ }
    answer 0x47000000#32 [] [] s = some [0#32, 0#32] ∧ (after 0x47000000#32 [] [] s).txq.count = 0#7 ∧
    ((after 0x47000000#32 [] [] s).codecAt 0).bn = 9#4 := by decide

/-- R246's example: the tenth bit. -/
theorem test_dataPushRxBit :
    answer 0x48000001#32 [] [] (withCodec 0 { Codec.reset with pst := .stop, pacc := 0x41#8 }) =
      some [0#32, 0x03000041#32] := by decide

/-- R265's example. -/
theorem test_v8Start : answer 0x50000013#32 [] [] State.reset = some [0#32, 0x02000001#32] := by decide

theorem test_v8Start_listen : answer 0x50010000#32 [] [] State.reset = some [0#32, 0x02000002#32] := by decide

/-- R266's example. -/
theorem test_v8Stop : answer 0x51000000#32 [] [] (withV8 { V8Regs.reset with phase := .txAns }) = some [0#32, 0x02010008#32] := by
  decide

/-- R269's examples. -/
theorem test_v8AddCap : (after 0x52000016#32 [] [] State.reset).v8.ntx = 1#5 := by decide

theorem test_v8AddCap_again :
    answer 0x52000016#32 [] [] (withV8 { V8Regs.reset with ntx := 1#5, txcaps := [(0, 0x16#8)] }) = some [1#32] := by decide

/-- R274. -/
theorem test_v8GetTxcaps :
    answer 0x53000000#32 [] [] (withV8 { V8Regs.reset with ntx := 2#5, txcaps := [(0, 0x16#8), (1, 0x21#8)] }) =
      some [0#32, 2#32, 0x16#32, 0x21#32] := by decide

/-- R275. -/
theorem test_v8GetRxcaps : answer 0x54000000#32 [] [] State.reset = some [0#32, 0#32] := by decide

/-- R288's example: the 2100 Hz answer tone. -/
theorem test_v8Tx :
    let s := { withV8 { V8Regs.reset with phase := .txAns } with
      tone := toneLoadRegs 16000#32 0x13#8 0#32 0x4000#32 0xFFFF#16 }
    answer 0x55000004#32 [] [] s = some [0#32, 0#32, 12004#32, 16340#32, 10159#32] := by decide

/-- R289's example: nothing changes in `IDLE`. -/
theorem test_v8Rx_idle : answer 0x56000004#32 [] [1#32, 2#32, 3#32, 4#32] State.reset = some [0#32] := by decide

/-- R290: the first data bit of the first octet, 0xC1, in `SENT_JM`; and the change from `SENT_ANSAM`. -/
theorem test_v8PopTxBit :
    answer 0x57000000#32 [] [] (withV8 { V8Regs.reset with phase := .sentJm, outlen := 5#5, cursor := 21#16, out := [(0, 0xC1#8)] }) =
      some [0#32, 1#32] ∧
    answer 0x57000000#32 [] [] (withV8 { V8Regs.reset with phase := .sentAnsam }) = some [0#32, 1#32, 0x02030004#32] := by decide

/-- R281, R283, S5: the second marker in a row with the same checksum answers with the joint menu. -/
theorem test_v8PushRxBit :
    let s := withV8 { V8Regs.reset with
      phase := .waitCm, rxlen := 1#5, rxbuf := [(0, 0xC1#8)], ckv := true, ck := menuChecksum [0xC1#8], sync := 0x007#10 }
    answer 0x58000001#32 [] [] s = some [0#32, 0x02050006#32] ∧ (after 0x58000001#32 [] [] s).v8.nrx = 1#5 := by decide

/-- R329's example. -/
theorem test_restart :
    let t := after 0x60120000#32 [] [] (inCall .data 2#2)
    t.callState = .offHookIdle ∧ t.dialTone = 0x12#8 ∧ t.tone.inc1 = 0x06CCCCCC#32 ∧ t.timerPend = 0#2 := by decide

theorem test_restart_invalid : answer 0x60000000#32 [] [] State.reset = some [1#32] := by decide

/-- R330. -/
theorem test_isOnHook :
    answer 0x61000000#32 [] [] State.reset = some [0#32, 1#32] ∧
    answer 0x61000000#32 [] [] (inCall .dialing 0#2) = some [0#32, 0#32] := by decide

/-- R331: the rate is kept. -/
theorem test_setOnHook :
    let t := after 0x62000000#32 [] [] { inCall .v8 1#2 with srate := 8000#32 }
    t.callState = .onHook ∧ t.srate = 8000#32 ∧ t.timerPend = 0#2 := by decide

/-- R332's example. -/
theorem test_setOffHook :
    let t := after 0x63110000#32 [] [] State.reset
    t.callState = .offHookIdle ∧ t.dialTone = 0x11#8 ∧ t.det.n = 16#5 := by decide

theorem test_setOffHook_again : answer 0x63110000#32 [] [] (inCall .offHookIdle 0#2) = some [1#32] := by decide

/-- R333's example. -/
theorem test_pull : answer 0x64000004#32 [] [] State.reset = some [0#32, 4#32, 0#32, 0#32, 0#32, 0#32] := by decide

/-- R334: on hook every sample is discarded. -/
theorem test_push_onHook : answer 0x65000002#32 [] [1#32, 2#32] State.reset = some [0#32] := by decide

/-- R334: off hook the classifier takes the samples. -/
theorem test_push :
    (after 0x65000002#32 [] [1#32, 2#32]
      { inCall .offHookIdle 0#2 with det := { Detector.reset with n := 1#5, na := 1#4 } }).det.fill = 2#16 := by decide

/-- R343: a start bit, and the tenth bit of 0x41 in `DATA`. -/
theorem test_serialBit :
    ((after 0x66000000#32 [] [] State.reset).codecAt 1).pst = .data ∧
    (after 0x66000001#32 [] [] ((inCall .data 0#2).setCodec 1 { Codec.reset with pst := .stop, pacc := 0x41#8 })).txq =
      ⟨[(0, 0x41#8)], 0#6, 1#7⟩ := by decide

/-- R337's example: a timer that was not requested. -/
theorem test_timerFire_notPending : answer 0x67000000#32 [] [] State.reset = some [1#32] := by decide

/-- R338: the post-dial timer starts the V.8 engine. -/
theorem test_timerFire :
    answer 0x67000000#32 [] [] (inCall .dialing 1#2) = some [0#32, 0x02000001#32] ∧
    (after 0x67000000#32 [] [] (inCall .dialing 1#2)).callState = .v8 := by decide

/-- The host's question, on one instruction: the word is run as the first instruction after reset. -/
theorem test_withFetchWord : step (State.reset.withFetchWord 32 0x03000000) = .next (State.reset.answeredOk [16000#32] [] []) :=
  rfl

/-! ### A state and operands that meet the hypotheses of each obligation, clause by clause -/

theorem witness_DecodeEncodeRoundTrip :
    (Instr.v8Start .listen 0#16).wellFormed = true ∧ (Instr.push [1#32, 2#32]).wellFormed = true := by decide

theorem witness_EncodeDecodeRoundTrip : decode ⟨0x13030100#32, [77000#32], []⟩ = .ok (.gzInit 3 256#16 77000#32) := rfl

theorem witness_IllegalExactly :
    cwAllocated 0x68000000#32 = false ∧ (cwAllocated 0x50010013#32 = true ∧ cwFieldsOk 0x50010013#32 = false) ∧
    (cwAllocated 0x67020000#32 = true ∧ cwFieldsOk 0x67020000#32 = false) ∧
    { State.reset with pending := [⟨0x68000000#32, [], []⟩] }.pending = [⟨0x68000000#32, [], []⟩] := by decide

theorem witness_StepRunsDecoded :
    decode ⟨0x00000000#32, [], []⟩ = .ok .nop ∧ State.reset.pending = [] ∧
    decode ⟨0x12000000#32, [], []⟩ = .error .wordCount ∧ decode ⟨0x00000001#32, [], []⟩ ≠ .error .wordCount :=
  ⟨rfl, rfl, rfl, by rw [show decode ⟨0x00000001#32, [], []⟩ = .error .illegalField from rfl]; simp⟩

theorem witness_FailExactly :
    (Instr.rdReg 0#8 4#16).wellFormed = true ∧ failCause (.rdReg 0#8 4#16) State.reset = true ∧
    failCause (.rdReg 0#8 3#16) State.reset = false ∧ failCause (.rdReg 16#8 0x0100#16) State.reset = true ∧
    failCause (.rdReg 15#8 0x0100#16) State.reset = false := by decide

theorem witness_RefusedChangesNothing :
    (∃ t, exec (.rdReg 0#8 4#16) State.reset = .next t ∧ t.resp.status = some .fail ∧ Status.fail ≠ .ok) ∧
    decode ⟨0x06000000#32, [], []⟩ = .error .unallocatedOp ∧ decode ⟨0x00000001#32, [], []⟩ = .error .illegalField :=
  ⟨⟨_, rfl, rfl, by decide⟩, rfl, rfl⟩

theorem witness_PhaseTransitions :
    (reinitialises (.v8Start .send 0x13#16) = false ∧ ∃ t, exec (.v8Start .send 0x13#16) State.reset = .next t ∧
      t.resp.events = [.v8State .idle .txAns]) ∧
    (reinitialises (.restart 0x11#8) = true ∧ ∃ t, exec (.restart 0x11#8) (inCall .v8 0#2) = .next t ∧
      t.resp.status = some .ok) := ⟨⟨rfl, _, rfl, by decide⟩, rfl, _, rfl, by decide⟩

theorem witness_CallTransitions :
    (inCall .dialing 1#2).timerInv ∧ ∃ t, exec (.timerFire .postDial) (inCall .dialing 1#2) = .next t ∧ t.callState = .v8 := by
  refine ⟨?_, _, rfl, by decide⟩
  unfold State.timerInv; decide

/-- A command that changes much, and the state that meets every invariant before it. -/
def goingOffHook : State := { State.reset with pending := [⟨0x63110000#32, [], []⟩] }

theorem goingOffHook_step : ∃ t, step goingOffHook = .next t ∧ t.callState = .offHookIdle ∧ t.resp.status = some .ok :=
  ⟨_, rfl, by decide⟩

theorem witness_MemoryInvariant : goingOffHook.memoryInv ∧ ∃ t, step goingOffHook = .next t := by
  refine ⟨?_, _, rfl⟩
  unfold State.memoryInv State.setCountsOk State.startOk; decide

theorem witness_ToneDetectorInvariant :
    (goingOffHook.toneInv ∧ ∃ t, step goingOffHook = .next t) ∧ (goingOffHook.detInv ∧ ∃ t, step goingOffHook = .next t) := by
  refine ⟨⟨?_, _, rfl⟩, ?_, _, rfl⟩
  · unfold State.toneInv; decide
  · unfold State.detInv; decide

theorem witness_SchemeInvariant : goingOffHook.schemeInv ∧ ∃ t, step goingOffHook = .next t := by
  refine ⟨?_, _, rfl⟩
  unfold State.schemeInv; decide

theorem witness_CapabilityInvariant : goingOffHook.v8Inv ∧ ∃ t, step goingOffHook = .next t := by
  refine ⟨?_, _, rfl⟩
  unfold State.v8Inv State.setCountsOk; decide

theorem witness_TimerInvariant : goingOffHook.timerInv ∧ ∃ t, step goingOffHook = .next t := by
  refine ⟨?_, _, rfl⟩
  unfold State.timerInv; decide

theorem witness_BuilderInvariant : goingOffHook.builderInv ∧ ∃ t, step goingOffHook = .next t := by
  refine ⟨?_, _, rfl⟩
  unfold State.builderInv; decide

theorem witness_RangeInvariant : goingOffHook.rangeInv ∧ ∃ t, step goingOffHook = .next t := by
  refine ⟨?_, _, rfl⟩
  unfold State.rangeInv State.startOk; decide

theorem witness_KeptRegisters :
    goingOffHook.rateOk ∧ (∃ t, step goingOffHook = .next t) ∧
    (∃ t, exec (.setOffHook 0x11#8) State.reset = .next t) ∧ Instr.setOffHook 0x11#8 ≠ .reset ∧
    (∀ hz, Instr.setOffHook 0x11#8 ≠ .setRate hz) ∧ (∀ o, Instr.setOffHook 0x11#8 ≠ .frmCfg 0 o) ∧
    (∀ item, Instr.setOffHook 0x11#8 ≠ .v8AddCap item) := by
  refine ⟨?_, ⟨_, rfl⟩, ⟨_, rfl⟩, by simp, by simp, by simp, by simp⟩
  unfold State.rateOk; decide

theorem witness_InspectionResults :
    inRanges regRanges 0x0004 0 = false ∧ inRanges regRanges 0x0100 16 = false ∧ inRanges regRanges 0x0100 15 = true ∧
    inRanges memRanges 11 0 = false ∧ inRanges memRanges 0 1024 = false ∧ inRanges memRanges 0 1023 = true := by decide

theorem witness_PhaseArithmetic :
    1 ≤ 16000 ∧ (0#32 : Word).extractLsb' 22 10 = (0x003FFFFF#32 : Word).extractLsb' 22 10 := by decide

theorem witness_IqBuild :
    (0#16).toNat = 0 ∧ 512 < (513#16).toNat ∧ (1 ≤ (1#16).toNat ∧ (1#16).toNat ≤ 512) ∧
    (1 ≤ (512#16).toNat ∧ (512#16).toNat ≤ 512) := by decide

theorem witness_FrameConfigLoad :
    (withCodec 1 { Codec.reset with bn := 1#4 }).codec[(1 : Fin 3)].bn ≠ 0#4 ∧ State.reset.codec[(1 : Fin 3)].bn = 0#4 := by decide

theorem witness_FramePopPushReset :
    State.reset.codec[(0 : Fin 3)].bn = 0#4 ∧ (withCodec 0 { Codec.reset with bn := 10#4 }).codec[(0 : Fin 3)].bn ≠ 0#4 ∧
    State.reset.codec[(0 : Fin 3)].pst = .idle ∧
    ((withCodec 0 { Codec.reset with pst := .data, pk := 7#3 }).codec[(0 : Fin 3)].pst = .data ∧
      (withCodec 0 { Codec.reset with pst := .data, pk := 7#3 }).codec[(0 : Fin 3)].pk = 7#3) ∧
    ((withCodec 0 { Codec.reset with pst := .data, pk := 6#3 }).codec[(0 : Fin 3)].pst = .data ∧
      (withCodec 0 { Codec.reset with pst := .data, pk := 6#3 }).codec[(0 : Fin 3)].pk ≠ 7#3) ∧
    (withCodec 0 { Codec.reset with pst := .stop }).codec[(0 : Fin 3)].pst = .stop := by decide

theorem witness_FrameRoundTrip :
    State.reset.codec[(0 : Fin 3)].bn = 0#4 ∧ State.reset.codec[(2 : Fin 3)].pst = .idle ∧
    State.reset.codec[(0 : Fin 3)].pst = .idle := by decide

theorem witness_ToneStartRegisters :
    failCause (.toneStart 5#8 0xFFFF#16 0xFFFFFFFF#32 0x4000#32) State.reset = false ∧
    failCause (.toneStart 0x18#8 0xFFFF#16 0#32 0x4000#32) State.reset = false ∧ (toneDesc 0x18).playMs ≠ 0 ∧
    (BitVec.ofNat 32 (((toneDesc 0x18).playMs * State.reset.srate.toNat) / 1000) : Word) ≠ 0#32 ∧
    failCause (.toneStart 0x18#8 0#16 1#32 0x4000#32) State.reset = false := by decide

theorem witness_ToneStartFRegisters :
    (0xFFFFFFFF#32 : Word) ≠ 0#32 ∧ (1#32 : Word) ≠ 0#32 ∧ State.reset.v8.phase ≠ .txAns ∧
    ((withV8 { V8Regs.reset with phase := .txAns }).v8.phase = .txAns ∧
      schemeUsable (withV8 { V8Regs.reset with phase := .txAns }).srate 1 = true) := by decide

/-- A finite tone of three samples. -/
def shortTone : State := { State.reset with tone := toneFreqRegs 16000#32 100000#32 0#32 3#32 0x4000#32 }

theorem witness_ToneFiniteLength :
    shortTone.tone.active = true ∧ shortTone.tone.finite = true ∧ shortTone.tone.left ≠ 0#32 ∧ shortTone.tone.succ = 0#8 ∧
    shortTone.v8.phase ≠ .txAns ∧ (2#16).toNat < shortTone.tone.left.toNat ∧ shortTone.tone.left.toNat ≤ (3#16).toNat := by decide

/-- An indefinite tone of one frequency. -/
def endlessTone : State := { State.reset with tone := toneFreqRegs 16000#32 100000#32 0#32 0xFFFFFFFF#32 0x4000#32 }

theorem witness_ToneIndefiniteStop :
    endlessTone.tone.active = true ∧ endlessTone.tone.finite = false ∧ State.reset.tone.active = false := by decide

theorem witness_TonePlainSamples :
    endlessTone.tone.active = true ∧ endlessTone.tone.finite = false ∧ endlessTone.tone.amInc = 0#32 ∧
    endlessTone.tone.revInt = 0#32 ∧
    (let s := { State.reset with tone := { shortTone.tone with left := 1#32, revInt := 5#32, revLeft := 1#32, amInc := 1#32 } };
      s.tone.active = true ∧ s.tone.finite = true ∧ s.tone.left = 1#32 ∧ s.tone.succ = 0#8 ∧ s.v8.phase ≠ .txAns) ∧
    (let s := { withV8 { V8Regs.reset with phase := .txAns } with tone := { shortTone.tone with left := 1#32 } };
      s.tone.active = true ∧ s.v8.phase = .txAns ∧ schemeUsable s.srate 1 = true) ∧
    (let s := { State.reset with tone := { shortTone.tone with left := 1#32, succ := 0x1A#8 } };
      s.tone.succ ≠ 0#8 ∧ toneValid s.tone.succ.toNat = true) := by decide

/-- The answer tone with reversals, at the sample before the first reversal (R187): both carriers jump by half the domain. -/
theorem test_reversal :
    (toneSample { State.reset with tone := { endlessTone.tone with revInt := 7200#32, revLeft := 1#32, inc1 := 5#32 } }).1.tone.ph1 =
      0x80000005#32 ∧
    (toneSample { State.reset with tone := { endlessTone.tone with revInt := 7200#32, revLeft := 1#32 } }).1.tone.revLeft =
      7200#32 := by decide

theorem witness_DetectorConfigReset :
    failCause (.detCfg [0x13#32, 0x17#32]) State.reset = false ∧ failCause (.detCfg [5#32]) State.reset = false := by decide

/-- The classifier with two units, and a block filled up to `fill`. -/
def filled (fill : BitVec 16) : State :=
  { State.reset with det := { Detector.reset with n := 2#5, na := 2#4, nb := 8#4, fill := fill } }

theorem witness_DetectorSamples :
    State.reset.det.n = 0#5 ∧
    ((filled 253#16).det.n ≠ 0#5 ∧ (filled 253#16).det.na.toNat ≤ 8 ∧ (filled 253#16).det.nb.toNat ≤ 8 ∧
      (filled 253#16).det.fill.toNat + [1#32, 2#32].length < 256) ∧
    ((filled 254#16).det.n ≠ 0#5 ∧ (filled 254#16).det.fill.toNat < 256 ∧
      256 ≤ (filled 254#16).det.fill.toNat + [1#32, 2#32].length ∧ (filled 254#16).det.n.toNat ≤ 16) := by decide

/-- R206 over the integers (R10): a hit counter that wraps to 0 has `dur - P_DET_BLOCK = -256`, below a debounce time of 0
samples, so the block is `NEW`. -/
theorem test_classify_negative :
    (classify 5#8 1 { State.reset with srate := 20#32, det := { Detector.reset with cand := 5#8, hits := 0xFFFFFFFF#32 } }).2 =
      ⟨.new, 5#8, 1⟩ := by decide

theorem witness_UnbrokenToneNewOnce :
    (5#8 : Byte) ≠ 0#8 ∧ State.reset.det.cand ≠ 5#8 ∧ (toneDesc 5).playMs = 0 ∧ 2 + 1 < 2 ^ 32 := by decide

theorem witness_FskSelectResult :
    schemeUsable State.reset.srate (4#8 : Byte).toNat = true ∧ schemeUsable State.reset.srate (1#8 : Byte).toNat = true := by
  decide

theorem witness_FskTransmitSample :
    State.reset.fsk.scheme = 0#8 ∧ (withV21 false).fsk.txen = false ∧
    ((withV21 true).fsk.scheme ≠ 0#8 ∧ (withV21 true).fsk.txen = true ∧ (withV21 true).fsk.txch.toNat = (0 : Fin 2).val) ∧
    ((withV21 true).setChan 0 { FskChannel.reset with binc := 0xFFFFFFFF#32 }).chan[(0 : Fin 2)].modClk.toNat +
      ((withV21 true).setChan 0 { FskChannel.reset with binc := 0xFFFFFFFF#32 }).chan[(0 : Fin 2)].binc.toNat < 2 ^ 32 ∧
    2 ^ 32 ≤ ((withV21 true).setChan 0 { FskChannel.reset with binc := 0xFFFFFFFF#32, modClk := 1#32 }).chan[(0 : Fin 2)].modClk.toNat +
      ((withV21 true).setChan 0 { FskChannel.reset with binc := 0xFFFFFFFF#32, modClk := 1#32 }).chan[(0 : Fin 2)].binc.toNat ∧
    (withV21 true).codec[(0 : Fin 3)].bn = 0#4 ∧ (withV21 true).txq.count = 0#7 := by decide

theorem witness_FskReceiveSample :
    State.reset.fsk.scheme = 0#8 ∧ (withV21 false).fsk.scheme ≠ 0#8 ∧ (withV21 false).fsk.rxch.toNat = (1 : Fin 2).val ∧
    (BitVec.ofInt 32 ((0#32 : Word).toInt / 2 ^ (withV21 false).chan[(1 : Fin 2)].shift.toNat) : Word) = 0#32 ∧
    (withV21 false).chan[(1 : Fin 2)].ring = [] ∧
    (withV21 false).chan[(1 : Fin 2)].demClk.toNat + (withV21 false).chan[(1 : Fin 2)].binc.toNat < 2 ^ 32 := by decide

theorem witness_TxByteResult :
    { State.reset with txq := ⟨[], 3#6, 64#7⟩ }.txq.count.toNat = 64 ∧
    { State.reset with txq := ⟨[], 63#6, 63#7⟩ }.txq.count.toNat ≠ 64 := by decide

theorem witness_DataBits :
    (withCodec 0 { Codec.reset with bn := 1#4 }).codec[(0 : Fin 3)].bn ≠ 0#4 ∧
    (State.reset.codec[(0 : Fin 3)].bn = 0#4 ∧ State.reset.txq.count = 0#7) ∧
    ({ State.reset with txq := ⟨[], 63#6, 64#7⟩ }.codec[(0 : Fin 3)].bn = 0#4 ∧
      { State.reset with txq := ⟨[], 63#6, 64#7⟩ }.txq.count ≠ 0#7) := by decide

theorem witness_DataPathRoundTrip :
    [0x41#8, 0#8, 0xFF#8].length ≤ 64 ∧ (List.replicate 64 (0x55#8 : Byte)).length ≤ 64 ∧ State.reset.txq.count = 0#7 ∧
    State.reset.codec[(0 : Fin 3)].bn = 0#4 ∧ State.reset.codec[(0 : Fin 3)].pst = .idle := by decide

theorem witness_V8StartStop :
    failCause (.v8Start .send 0x13#16) State.reset = false ∧
    (toneDesc (0x13#16).toNat).playMs ≠ 0 ∧ msToSamples State.reset.srate (toneDesc (0x13#16).toNat).playMs ≠ 0#32 ∧
    failCause (.v8Start .send 0x11#16) State.reset = false ∧ (toneDesc (0x11#16).toNat).playMs = 0 ∧
    failCause (.v8Start .listen 0#16) State.reset = false := by decide

theorem witness_CapabilityOps :
    itemValid 0x18#8 = false ∧
    (∃ j, j < (withV8 { V8Regs.reset with ntx := 1#5, txcaps := [(0, 0x16#8)] }).v8.ntx.toNat ∧
      ramRead (withV8 { V8Regs.reset with ntx := 1#5, txcaps := [(0, 0x16#8)] }).v8.txcaps j = 0x16#8) ∧
    (withV8 { V8Regs.reset with ntx := 16#5 }).v8.ntx = 16#5 ∧
    (itemValid 0x16#8 = true ∧ (∀ j, j < State.reset.v8.ntx.toNat → ramRead State.reset.v8.txcaps j ≠ 0x16#8) ∧
      State.reset.v8.ntx ≠ 16#5) :=
  ⟨by decide, ⟨0, by decide, by decide⟩, by decide, by decide, fun j h => absurd h (by simp [State.reset, V8Regs.reset]), by decide⟩

theorem witness_V8TransmitSequence :
    ((withV8 { V8Regs.reset with phase := .sentCm, outlen := 5#5 }).v8.phase = .sentCm ∧
      (withV8 { V8Regs.reset with phase := .sentCm, outlen := 5#5 }).v8.cursor = 0#16) ∧
    (withV8 { V8Regs.reset with phase := .sentJm }).v8.phase = .sentJm ∧
    ((withV8 { V8Regs.reset with phase := .sentAnsam }).v8.phase = .sentAnsam ∧
      (withV8 { V8Regs.reset with phase := .sentAnsam }).v8.cursor = 0#16) := by decide

/-- A receiver one bit before a marker, with one byte received. -/
def beforeMarker (phase : Phase) (rxlen : BitVec 5) (ckv : Bool) : State :=
  withV8 { V8Regs.reset with
    phase := phase, sync := 0x007#10, rxlen := rxlen, rxbuf := [(0, 0xC1#8)], ckv := ckv, ck := menuChecksum [0xC1#8] }

theorem witness_V8ReceiveMarker :
    State.reset.v8.nrx.toNat ≤ 16 ∧ { V8Regs.reset with nrx := 16#5 }.nrx.toNat ≤ 16 ∧
    (State.reset.v8.sync <<< 1) ||| 1#10 ≠ 0x00F#10 ∧ State.reset.codec[(2 : Fin 3)].pst = .idle ∧
    ((beforeMarker .sentJm 0#5 false).v8.sync <<< 1) ||| 1#10 = 0x00F#10 ∧ (beforeMarker .sentJm 0#5 false).v8.rxlen = 0#5 ∧
    ((beforeMarker .sentAnsam 1#5 false).v8.rxlen ≠ 0#5 ∧ (beforeMarker .sentAnsam 1#5 false).v8.ckv = false) ∧
    ((beforeMarker .sentCm 1#5 true).v8.ckv = true ∧ (beforeMarker .sentCm 1#5 true).v8.ck =
      menuChecksum ((List.range 1).map (ramRead (beforeMarker .sentCm 1#5 true).v8.rxbuf)) ∧
      (beforeMarker .sentCm 1#5 true).callState ≠ .v8) ∧
    { beforeMarker .sentCm 1#5 true with callState := .v8 }.callState = .v8 ∧
    ((beforeMarker .waitCm 1#5 true).v8.phase = .waitCm ∧ (beforeMarker .waitCm 1#5 true).v8.ck =
      menuChecksum ((List.range 1).map (ramRead (beforeMarker .waitCm 1#5 true).v8.rxbuf))) ∧
    ((beforeMarker .sentAnsam 1#5 true).v8.phase = .sentAnsam ∧ (beforeMarker .sentAnsam 1#5 true).v8.ckv = true) ∧
    (beforeMarker .sentJm 1#5 true).v8.phase = .sentJm := by decide

/-- A parser that waits for the stop bit of the byte `b`, in phase `p` with `len` bytes stored and a zero run of 2. -/
def beforeByte (p : Phase) (b : Byte) (len : BitVec 5) (c : CallState) : State :=
  { withCodec 2 { Codec.reset with pst := .stop, pacc := b } with
    v8 := { V8Regs.reset with phase := p, rxlen := len, zrun := 2#2 }
    callState := c }

theorem witness_V8ReceiveByte :
    (let s := beforeByte .sentJm 0#8 16#5 .onHook;
      (s.v8.sync <<< 1) ||| 1#10 ≠ 0x00F#10 ∧ s.codec[(2 : Fin 3)].pst = .stop ∧ s.v8.phase = .sentJm ∧
      (BitVec.ofNat 2 (min (s.v8.zrun.toNat + 1) 3) : BitVec 2) = 3#2 ∧ s.callState ≠ .v8) ∧
    (beforeByte .sentJm 0#8 15#5 .v8).callState = .v8 ∧
    ((beforeByte .waitCm 0#8 15#5 .v8).v8.phase ≠ .sentJm ∧ (beforeByte .sentJm 7#8 0#5 .v8).codec[(2 : Fin 3)].pacc ≠ 0#8) ∧
    State.reset.codec[(2 : Fin 3)].pst ≠ .stop := by decide

/-- R282: the third zero byte in a row ends the negotiation of the side that sent the JM. -/
theorem test_zero_bytes :
    (v8PushRxBit true (beforeByte .sentJm 0#8 3#5 .onHook)).v8.phase = .negotiated ∧
    (v8PushRxBit true (beforeByte .sentCm 0#8 3#5 .onHook)).v8.phase = .sentCm := by decide

theorem witness_MenuRoundTrip :
    let items : List Byte := [0x10#8, 0x21#8, 0x44#8, 0x51#8, 0x97#8]
    items.Nodup ∧ (∀ i ∈ items, itemValid i = true) ∧
    (items.filter (fun i => decide (i.toNat < 0x20) || decide (0x50 ≤ i.toNat))).length ≤ 13 := by decide

/-- The same at the bound: thirteen items with octets of their own, and one in each modulation octet. -/
theorem witness_MenuRoundTrip_full :
    let items : List Byte :=
      [0x10#8, 0x11#8, 0x12#8, 0x13#8, 0x14#8, 0x15#8, 0x16#8, 0x17#8, 0x50#8, 0x62#8, 0x71#8, 0x87#8, 0x90#8, 0x20#8,
       0x34#8, 0x40#8]
    items.Nodup ∧ (∀ i ∈ items, itemValid i = true) ∧
    (items.filter (fun i => decide (i.toNat < 0x20) || decide (0x50 ≤ i.toNat))).length = 13 := by decide

theorem witness_TerminalPhases :
    (withV8 { V8Regs.reset with phase := .negotiated }).v8.phase = .negotiated ∧ (inCall .v8 0#2).v8.phase = .idle ∧
    (inCall .v8 0#2).callState = .v8 ∧
    (∃ t, exec .v8Stop (withV8 { V8Regs.reset with phase := .negotiated }) = .next t ∧ t.v8.phase = .stopped) ∧
    (∀ role tone, Instr.v8Stop ≠ .v8Start role tone) ∧ Instr.v8Stop ≠ .timerFire .postDial :=
  ⟨by decide, by decide, by decide, ⟨_, rfl, by decide⟩, by simp, by simp⟩

theorem witness_V8Samples :
    (withV8 { V8Regs.reset with phase := .txAns }).v8.phase = .txAns ∧
    (withV8 { V8Regs.reset with phase := .txAns }).tone.active = false ∧
    (let s := { withV8 { V8Regs.reset with phase := .txAns } with tone := shortTone.tone };
      s.v8.phase = .txAns ∧ s.tone.active = true ∧ (2#16).toNat < s.tone.left.toNat) ∧
    (let s := { withV8 { V8Regs.reset with phase := .txAns } with tone := { shortTone.tone with left := 1#32 } };
      s.tone.active = true ∧ s.tone.finite = true ∧ s.tone.left = 1#32 ∧ s.tone.succ = 0#8 ∧
      schemeUsable s.srate 1 = true) ∧
    (withV8 { V8Regs.reset with phase := .waitCm }).v8.phase = .waitCm ∧
    (let s := { withV21 true with v8 := { V8Regs.reset with phase := .sentCm } };
      s.v8.phase = .sentCm ∧ s.fsk.scheme ≠ 0#8 ∧ s.fsk.txen = true ∧ s.fsk.txch.toNat = (0 : Fin 2).val ∧
      s.fsk.rxch.toNat = (1 : Fin 2).val) ∧
    (let s := { withV8 { V8Regs.reset with phase := .rxAns } with det := (filled 254#16).det };
      s.v8.phase = .rxAns ∧ s.det.n ≠ 0#5 ∧ s.det.fill.toNat < 256 ∧ s.det.fill.toNat + [1#32, 2#32].length ≤ 256 ∧
      schemeUsable s.srate 1 = true) ∧
    ((withV8 { V8Regs.reset with phase := .sentJm }).v8.phase = .sentJm ∧
      (withV8 { V8Regs.reset with phase := .sentJm }).fsk.scheme = 0#8) := by decide

theorem witness_PullDispatch :
    State.reset.callState = .onHook ∧ (inCall .dialing 0#2).callState = .dialing ∧
    (inCall .offHookIdle 0#2).callState = .offHookIdle ∧ (inCall .v8 0#2).callState = .v8 ∧
    (inCall .data 0#2).callState = .data := by decide

theorem witness_PushDispatch :
    State.reset.callState = .onHook ∧ (inCall .v8 0#2).callState = .v8 ∧ (inCall .data 0#2).callState = .data ∧
    (let s := { inCall .offHookIdle 0#2 with det := (filled 254#16).det };
      s.callState = .offHookIdle ∧ 1 ≤ [1#32, 2#32].length ∧ s.det.fill.toNat + [1#32, 2#32].length ≤ 256) ∧
    (let s := { inCall .dialing 1#2 with det := (filled 0#16).det };
      s.callState = .dialing ∧ s.det.fill.toNat + [1#32].length ≤ 256) := by decide

theorem witness_HookOps :
    (inCall .dialing 0#2).callState ≠ .onHook ∧ toneValid (0#8 : Byte).toNat = false ∧ toneValid (0x1B#8 : Byte).toNat = false ∧
    toneValid (0x1A#8 : Byte).toNat = true ∧ State.reset.callState = .onHook ∧
    toneValid (0x11#8 : Byte).toNat = true ∧ (toneDesc (0x11#8 : Byte).toNat).playMs = 0 ∧
    msToSamples State.reset.srate (toneDesc (0x1A#8 : Byte).toNat).playMs ≠ 0#32 := by decide

/-- A `DTE` parser that waits for its stop bit, in the data phase. -/
def beforeStop (count : BitVec 7) : State :=
  { (inCall .data 0#2).setCodec 1 { Codec.reset with pst := .stop, pacc := 0x41#8 } with txq := ⟨[], 0#6, count⟩ }

theorem witness_SerialBit :
    State.reset.codec[(1 : Fin 3)].pst ≠ .stop ∧ (beforeStop 64#7).txq.count.toNat = 64 ∧
    ((beforeStop 63#7).codec[(1 : Fin 3)].pst = .stop ∧ (beforeStop 63#7).callState = .data ∧
      (beforeStop 63#7).txq.count.toNat ≠ 64) := by decide

theorem witness_TimerFire :
    State.reset.timerPend.getLsbD 0 = false ∧ State.reset.timerPend.getLsbD 1 = false ∧
    schemeUsable { State.reset with srate := 299#32 }.srate 1 = false ∧
    ((inCall .dialing 1#2).timerPend.getLsbD 0 = true ∧ schemeUsable (inCall .dialing 1#2).srate 1 = true) ∧
    ((inCall .data 2#2).timerPend.getLsbD 1 = true ∧ (inCall .data 2#2).txq.count.toNat ≤ 64) := by decide

theorem witness_TransmitSplit : (3#16).toNat + (65532#16).toNat < 65536 := by decide

theorem witness_ReceiveSplit : State.reset.detInv ∧ State.reset.callState ≠ .v8 := by
  unfold State.detInv; decide

end Sys2Proof.Tests
end

section
/-! # Moves: what an operation can do to the state

Every operation that is not a re-initialisation is a chain of moves, each one write of `spec/10_state.md` with the condition
under which the rules make it. `exec_ran` says so once for all 53 operations; an invariant between operations is then a fact
about one move. -/

namespace Sys2Proof.Proofs

open Sys2Proof.Machine Sys2Proof.Laws

/-! ### The relation -/

/-- The event is an `EV_V8_STATE`. -/
def isPhaseEvent (e : Event) : Bool :=
  match e with
  | .v8State _ _ => true
  | .toneDone _ | .rxByte _ | .timerReq _ => false

/-- A scheme that the rules select in this state: none, a usable one, or V21 in the two phases in which its usability stands
from the start of the session (`spec/44_v8_engine.md` R265). -/
def selectable (s : State) (id : Byte) : Prop :=
  id = 0#8 ∨ schemeUsable s.srate id.toNat = true ∨ (id = Config.v8Scheme ∧ (s.v8.phase = .txAns ∨ s.v8.phase = .rxAns))

/-- The call state in which a timer is requested (`spec/46_facade_host.md` R335, R340). -/
def requestState (w : Timer) : CallState :=
  match w with
  | .postDial => .dialing
  | .preData => .data

/-- One write to the state, under the condition under which the rules make it. -/
inductive Move : State → State → Prop
  /-- An event other than a phase change is emitted (R98). -/
  | event (s : State) (e : Event) (h : isPhaseEvent e = false) : Move s (s.emit e)
  /-- A Goertzel unit is set up (R136). -/
  | gzInit (s : State) (u f n : Nat) : Move s (Machine.gzInit u f n s)
  /-- Taps and count of a unit move or are cleared, its coefficient stays (R137, R140, R201). -/
  | gzTaps (s : State) (u : Nat) (g : Goertzel) (h : g.coeff = (s.gzAt u).coeff) : Move s (s.setGz u g)
  /-- A table is built, of the ring's length at most (R141, R150, R224). -/
  | buildIq (s : State) (t f len : Nat) (h : len ≤ 512) : Move s (Machine.buildIq t f len s)
  /-- An idle frame builder takes a byte (R162). -/
  | frmLoad (s : State) (k : Nat) (b : Byte) (h : (s.codecAt k).bn = 0#4) :
      Move s (s.setCodec k { s.codecAt k with bframe := frameBits b (s.codecAt k).order, bn := 10#4 })
  /-- A bit leaves a frame builder (R163). -/
  | frmPop (s : State) (k : Nat) : Move s (Machine.frmPop k s).1
  /-- A bit enters a frame parser (R164). -/
  | frmPush (s : State) (k : Nat) (b : Bool) : Move s (Machine.frmPush k b s).1
  /-- A codec is reset, its bit order stays (R166). -/
  | frmReset (s : State) (k : Nat) : Move s (Machine.frmReset k s)
  /-- The transmitter's registers are written, with a budget that is not exhausted (R185, R187). -/
  | tone (s : State) (t : ToneTx) (h : t.spent = false) : Move s { s with tone := t }
  /-- The classifier is configured (R200). -/
  | detRegs (s : State) (ids : List Nat) (hn : ids.length ≤ 16) (ha : (subsetA ids).length ≤ 8)
      (hb : (subsetB ids).length ≤ 8) : Move s { s with det := Machine.detRegs ids (subsetA ids) (subsetB ids) }
  /-- Samples into the classifier, up to the end of a block (R204). -/
  | detect (s : State) (dual : Bool) (xs : List Word) : Move s (Machine.detect dual xs s).1
  /-- The classifier's block and candidate are cleared (R201). -/
  | detRestart (s : State) : Move s { s with det := { s.det with fill := 0#16, cand := 0#8, hits := 0#32 } }
  /-- The classifier is switched off (R202). -/
  | detOff (s : State) : Move s (Machine.detOff s)
  /-- A scheme is selected (R224). -/
  | select (s : State) (id : Byte) (h : selectable s id) : Move s (fskSelect id s)
  /-- The transmit channel becomes one the scheme has (R226, R276, R287, R340). -/
  | txch (s : State) (c : BitVec 1) (h : c.toNat < s.fsk.nch.toNat) : Move s { s with fsk := { s.fsk with txch := c } }
  /-- The receive channel becomes one the scheme has (R227, R276, R287, R340). -/
  | rxch (s : State) (c : BitVec 1) (h : c.toNat < s.fsk.nch.toNat) : Move s { s with fsk := { s.fsk with rxch := c } }
  /-- Transmission is switched (R228). -/
  | txen (s : State) (e : Bool) : Move s { s with fsk := { s.fsk with txen := e } }
  /-- The clocks, the phase and the bits of a channel move (R230, R233, R236). -/
  | chan (s : State) (c : Nat) (x : FskChannel) (hlen : x.symlen = (s.chanAt c).symlen)
      (hring : x.ring = (s.chanAt c).ring) : Move s (s.setChan c x)
  /-- A sample enters a ring (R233). -/
  | ringStore (s : State) (c : Nat) (v : Word) : Move s (s.setChan c ((s.chanAt c).store v))
  /-- A byte enters the transmit queue (R242). -/
  | txqPut (s : State) (b : Byte) (h : s.txq.count.toNat ≠ 64) :
      Move s { s with txq := { s.txq with
        mem := ramWrite s.txq.mem ((s.txq.head.toNat + s.txq.count.toNat) % 64) b, count := s.txq.count + 1#7 } }
  /-- A byte leaves the transmit queue (R243). -/
  | txqTake (s : State) (h : 0 < s.txq.count.toNat) : Move s (Machine.txqTake s).1
  /-- The V.8 phase changes with its event, as a row of the transition table (R262, R292). -/
  | phase (s : State) (p : Phase) (hne : s.v8.phase ≠ p) (hrow : phasePair s.v8.phase p = true)
      (hstart : p = .txAns ∨ p = .rxAns → schemeUsable s.srate Config.v8Scheme.toNat = true) :
      Move s (State.emit { s with v8 := { s.v8 with phase := p } } (.v8State s.v8.phase p))
  /-- The role of a session is set (R264). -/
  | role (s : State) (r : Role) : Move s { s with v8 := { s.v8 with role := r } }
  /-- The receive set and the outgoing menu of a session are emptied (R263). -/
  | session (s : State) :
      Move s { s with v8 := { s.v8 with nrx := 0#5, outlen := 0#5, cursor := 0#16 } }
  /-- The menu receiver's registers move; the bytes received stay or are dropped (R263, R280, R281). -/
  | receiver (s : State) (rxlen : BitVec 5) (ck : Word) (ckv : Bool) (sync : BitVec 10) (zrun : BitVec 2)
      (h : rxlen = 0#5 ∨ rxlen = s.v8.rxlen) :
      Move s { s with v8 := { s.v8 with rxlen := rxlen, ck := ck, ckv := ckv, sync := sync, zrun := zrun } }
  /-- A byte of a received menu is stored (R282). -/
  | storeByte (s : State) (b : Byte) : Move s (v8StoreByte b s)
  /-- An item of a received menu is offered to the receive set (R268, R272). -/
  | rxCapAdd (s : State) (i : Byte) : Move s (Machine.rxCapAdd s i)
  /-- A menu is made ready to be sent (R276, R283). -/
  | loadMenu (s : State) (items : List Byte) : Move s (v8LoadMenu items s)
  /-- The cursor moves on (R278). -/
  | nextBit (s : State) : Move s (v8NextBit s).1
  /-- The line goes off hook (R328). -/
  | offHook (s : State) (t : Byte) (h : s.callState = .onHook) :
      Move s { s with callState := .offHookIdle, dialTone := t }
  /-- The first digit (R335). -/
  | dial (s : State) (h : s.callState = .offHookIdle) : Move s { s with callState := .dialing }
  /-- The post-dial timer is answered (R337, R338). -/
  | answer (s : State) (h : s.timerPending .postDial = true) :
      Move s { s.clearTimer .postDial with callState := .v8 }
  /-- The data phase begins (R340). -/
  | data (s : State) (h : s.callState = .v8) : Move s { s with callState := .data }
  /-- A timer is requested (R336). -/
  | request (s : State) (w : Timer) (h : s.callState = requestState w) :
      Move s { s with timerPend := s.timerPend ||| timerBit w }
  /-- The pre-data timer is answered (R337). -/
  | clearPreData (s : State) : Move s (s.clearTimer .preData)

/-- A chain of moves. -/
abbrev Moves : State → State → Prop := Relation.ReflTransGen Move

/-- No move writes the rate. -/
theorem Move.srate {s t : State} (h : Move s t) : t.srate = s.srate := by
  cases h <;> simp

theorem Move.moves {s t : State} (h : Move s t) : Moves s t := .single h

/-- A property that every move keeps, a chain keeps. -/
theorem Moves.inv {p : State → Prop} (hp : ∀ s t, Move s t → p s → p t) {s t : State} (h : Moves s t) (hs : p s) : p t := by
  induction h with
  | refl => exact hs
  | tail _ hm ih => exact hp _ _ hm ih

/-- A part of the state that every move keeps, a chain keeps. -/
theorem Moves.keeps {β : Type} (g : State → β) (hg : ∀ s t, Move s t → g t = g s) {s t : State} (h : Moves s t) : g t = g s :=
  h.inv (p := fun u => g u = g s) (fun _ _ hm hs => (hg _ _ hm).trans hs) rfl

/-! ### Folds and blocks -/

theorem moves_foldl {α : Type} {f : State → α → State} (hf : ∀ s a, Moves s (f s a)) (l : List α) (s : State) :
    Moves s (l.foldl f s) := by
  induction l generalizing s with
  | nil => exact .refl
  | cons a l ih => exact (hf s a).trans (ih _)

theorem moves_synth {f : State → State × Word} (hf : ∀ s, Moves s (f s).1) (n : Nat) (s : State) :
    Moves s (synth f n s).1 :=
  synth_inv (Moves s) f (fun u hu => hu.trans (hf u)) n s .refl

variable (s : State)

/-! ### Goertzel units -/

theorem moves_goertzelStep (u : Nat) (x : Int) : Moves s (goertzelStep u x s) := (Move.gzTaps s u _ (by rfl)).moves

theorem moves_gzAcc (u : Nat) (xs : List Word) : Moves s (gzAcc u xs s).1 := by
  induction xs generalizing s with
  | nil => exact .refl
  | cons x xs ih =>
    unfold gzAcc
    split
    · exact (moves_goertzelStep s u (sampleInt x)).trans (ih _)
    · exact .refl

theorem moves_gzPowerClear (u : Nat) : Moves s (gzPowerClear u s) := by
  unfold gzPowerClear
  split
  · exact (Move.gzTaps s u _ (by rfl)).moves
  · exact .refl

/-! ### Classifier -/

theorem moves_detInitUnits (base : Nat) (l : List Nat) : Moves s (detInitUnits base l s) := by
  induction l generalizing s base with
  | nil => exact .refl
  | cons f l ih => exact (Move.gzInit s base f _).moves.trans (ih _ _)

theorem moves_detCfg {ids : List Nat} {t : State} (hn : ids.length ≤ 16) (h : detCfg ids s = some t) : Moves s t := by
  obtain ⟨ha, hb, rfl⟩ := (detCfg_eq_some s ids t).mp h
  exact (Move.detRegs s ids hn ha hb).moves.trans
    ((moves_detInitUnits _ _ _).trans (moves_detInitUnits _ _ _))

theorem moves_detCfg_getD {ids : List Nat} (hn : ids.length ≤ 16) : Moves s ((detCfg ids s).getD s) := by
  cases h : detCfg ids s with
  | none => exact .refl
  | some t => exact moves_detCfg s hn h

theorem moves_detClear : Moves s (detClear s) :=
  (Move.detRestart s).moves.trans (moves_foldl (fun t u => (Move.gzTaps t u _ (by rfl)).moves) _ _)

/-! ### Codecs and the byte queue -/

theorem moves_frmLoad {k : Nat} {b : Byte} {t : State} (h : frmLoad k b s = some t) : Moves s t := by
  rw [frmLoad_eq] at h
  split at h
  · rename_i hbn
    cases h
    exact (Move.frmLoad s k b hbn).moves
  · cases h

theorem moves_frmLoad_getD (k : Nat) (b : Byte) : Moves s ((frmLoad k b s).getD s) := by
  cases h : frmLoad k b s with
  | none => exact .refl
  | some t => exact moves_frmLoad s h

theorem moves_txqPut {b : Byte} {t : State} (h : txqPut b s = some t) : Moves s t := by
  obtain ⟨hc, rfl⟩ := (txqPut_eq_some s b t).mp h
  exact (Move.txqPut s b hc).moves

theorem moves_txqOffer (b : Byte) : Moves s (txqOffer s b) := by
  unfold txqOffer
  cases h : txqPut b s with
  | none => exact .refl
  | some t => exact moves_txqPut s h

theorem moves_dataPopTxBit : Moves s (dataPopTxBit s).1 := by
  unfold dataPopTxBit
  split
  · rename_i h
    exact (Move.txqTake s h.2).moves.trans ((moves_frmLoad_getD _ _ _).trans (Move.frmPop _ _).moves)
  · exact (Move.frmPop s _).moves

theorem moves_dataPushRxBit (b : Bool) : Moves s (dataPushRxBit b s) := by
  unfold dataPushRxBit
  dsimp only
  split
  · exact (Move.frmPush s _ b).moves.tail (.event _ _ rfl)
  · exact (Move.frmPush s _ b).moves

theorem moves_bootstrap : Moves s (bootstrap s) := moves_foldl moves_txqOffer _ s

/-! ### Modulator and demodulator -/

theorem moves_modSample {src : State → State × Bool} (hs : ∀ u, Moves u (src u).1) : Moves s (modSample src s).1 := by
  unfold modSample
  split
  · exact .refl
  · dsimp only
    refine Relation.ReflTransGen.tail ?_ (.chan _ _ _ (by rfl) (by rfl))
    split
    · refine Relation.ReflTransGen.tail (Relation.ReflTransGen.trans ?_ (hs _)) (.chan _ _ _ (by rfl) (by rfl))
      exact (Move.chan s _ _ (by rfl) (by rfl)).moves
    · exact (Move.chan s _ _ (by rfl) (by rfl)).moves

theorem moves_demSample {sink : Bool → State → State} (hs : ∀ b u, Moves u (sink b u)) (x : Word) :
    Moves s (demSample sink x s) := by
  unfold demSample
  split
  · exact .refl
  · dsimp only
    have htick : ∀ (c : Nat) (est : Bool), Moves s ((s.setChan c ((s.chanAt c).store x)).setChan c
        (((s.setChan c ((s.chanAt c).store x)).chanAt c).tick est).1) :=
      fun c est => (Move.ringStore s c x).moves.tail (.chan _ _ _ (by rfl) (by rfl))
    split
    · exact (htick _ _).trans (hs _ _)
    · exact htick _ _

theorem moves_demBlock {sink : Bool → State → State} (hs : ∀ b u, Moves u (sink b u)) (xs : List Word) :
    Moves s (demBlock sink xs s) :=
  moves_foldl (fun u x => moves_demSample u hs x) xs s

/-! ### Scheme selection -/

/-- The scheme registers after a selection (`spec/43_fsk_engine.md` R223, R224). -/
theorem fskSelect_fsk (id : Byte) :
    (fskSelect id s).fsk =
      if id = 0#8 then { FskRegs.reset with txen := s.fsk.txen }
      else
        { scheme := id
          nch := BitVec.ofNat 2 (schemeDesc id.toNat).nch
          txch := (schemeDesc id.toNat).defTx
          rxch := (schemeDesc id.toNat).defRx
          txen := s.fsk.txen } := by
  have htx := fskSelect_txen s id
  by_cases hid : id = 0#8
  · have hc : (fskClear s).fsk = { FskRegs.reset with txen := s.fsk.txen } := by
      unfold fskClear
      simp only [txqClear_fsk, frmReset_keeps]
      rw [foldl_keeps State.fsk clearIqLen (by simp)]
    simp [fskSelect, hid, hc]
  · rw [if_neg hid, ← htx]
    simp [fskSelect, hid]

theorem fskSelect_v8Scheme_nch : (fskSelect Config.v8Scheme s).fsk.nch = 2#2 := by
  rw [fskSelect_fsk]
  rfl

theorem moves_fskSetDirections (tx rx : BitVec 1) (en : Bool) (h : s.fsk.nch = 2#2) :
    Moves s (fskSetDirections tx rx en s) := by
  have hlt : ∀ c : BitVec 1, c.toNat < s.fsk.nch.toNat := fun c => by rw [h]; exact c.isLt
  exact ((Move.txch s tx (hlt tx)).moves.tail (.rxch _ rx (hlt rx))).tail (.txen _ en)

/-- V21 selected and its directions set, as the V.8 engine does (`spec/44_v8_engine.md` R276, R287). -/
theorem moves_selectV21 (tx rx : BitVec 1) (en : Bool) (h : s.v8.phase = .txAns ∨ s.v8.phase = .rxAns) :
    Moves s (fskSetDirections tx rx en (fskSelect Config.v8Scheme s)) :=
  (Move.select s _ (.inr (.inr ⟨rfl, h⟩))).moves.trans (moves_fskSetDirections _ tx rx en (fskSelect_v8Scheme_nch s))

theorem moves_selectDataScheme : Moves s (selectDataScheme s) := by
  unfold selectDataScheme
  refine (Move.select s _ ?_).moves
  split
  · rename_i h; exact .inr (.inl h)
  · exact .inl rfl

theorem moves_dataDirections : Moves s (dataDirections s) := by
  unfold dataDirections
  split
  · rename_i h
    have hlt : ∀ c : BitVec 1, c.toNat < s.fsk.nch.toNat := fun c => by rw [h.1]; exact c.isLt
    exact (Move.txch s 1#1 (hlt _)).moves.tail (.rxch _ 0#1 (hlt _))
  · exact .refl

/-! ### Phases and menus -/

theorem moves_requestTimer (w : Timer) (h : s.callState = requestState w) : Moves s (requestTimer w s) :=
  (Move.request s w h).moves.tail (.event _ _ rfl)

theorem moves_negotiatedHook : Moves s (negotiatedHook s) := by
  unfold negotiatedHook
  split
  · exact .refl
  · rename_i h
    refine Relation.ReflTransGen.trans ?_ (moves_requestTimer _ .preData ?_)
    · exact (((Move.data s (not_not.mp h)).moves.trans (moves_selectDataScheme _)).trans (moves_dataDirections _)).tail
        (.txen _ true)
    · simp [requestState]

theorem moves_v8Set {p : Phase} (hrow : s.v8.phase ≠ p → phasePair s.v8.phase p = true)
    (hstart : p = .txAns ∨ p = .rxAns → schemeUsable s.srate Config.v8Scheme.toNat = true) : Moves s (v8Set p s) := by
  unfold v8Set
  split
  · exact .refl
  · rename_i h
    refine Relation.ReflTransGen.head (.phase s p h (hrow h) hstart) ?_
    split
    · exact moves_negotiatedHook _
    · exact .refl

/-- A phase change between two phases that the caller names. -/
theorem moves_v8Set_from {old new : Phase} (h : s.v8.phase = old) (hrow : phasePair old new = true)
    (hn : new ≠ .txAns ∧ new ≠ .rxAns) : Moves s (v8Set new s) :=
  moves_v8Set s (fun _ => h ▸ hrow) (fun hs => (hs.elim hn.1 hn.2).elim)

theorem moves_v8ToneDone : Moves s (v8ToneDone s) := by
  unfold v8ToneDone
  split
  · exact .refl
  · rename_i h
    have hp : s.v8.phase = .txAns := not_not.mp h
    have hprep : Moves s (v8PrepareCm s) := by
      rw [v8PrepareCm_eq]
      exact (moves_selectV21 s 1#1 0#1 true (.inl hp)).tail (.loadMenu _ _)
    exact hprep.trans (moves_v8Set_from _ (old := .txAns) (by simp [hp]) rfl (by decide))

theorem moves_menuParse (buf : List Byte) : Moves s (menuParse buf s) :=
  moves_foldl (fun t i => (Move.rxCapAdd t i).moves) _ s

theorem moves_v8PopTxBit : Moves s (v8PopTxBit s).1 := by
  unfold v8PopTxBit
  split
  · rename_i h
    exact (moves_v8Set_from s h rfl (by decide)).tail (.nextBit _)
  · exact (Move.nextBit s).moves
  · exact (Move.nextBit s).moves
  all_goals exact .refl

theorem moves_v8SendJm (en : Bool) (h : s.v8.phase = .sentAnsam ∨ s.v8.phase = .waitCm) : Moves s (v8SendJm en s) := by
  have hrow : phasePair s.v8.phase .sentJm = true := by rcases h with h | h <;> rw [h] <;> rfl
  have hset : ∀ u : State, u.v8.phase = s.v8.phase → Moves u (v8Set .sentJm u) :=
    fun u hu => moves_v8Set_from u hu hrow (by decide)
  have hload : Moves s (v8LoadMenu (jointItems s) s) := (Move.loadMenu s _).moves
  have hphase : (v8LoadMenu (jointItems s) s).v8.phase = s.v8.phase := by rw [v8LoadMenu_v8]
  unfold v8SendJm
  generalize v8LoadMenu (jointItems s) s = u at hload hphase
  cases en with
  | false => exact hload.trans (hset u hphase)
  | true => exact (hload.tail (.txen u true)).trans (hset _ hphase)

theorem moves_v8Confirm : Moves s (v8Confirm s) := by
  unfold v8Confirm
  split
  · rename_i h; exact moves_v8Set_from s h rfl (by decide)
  · rename_i h; exact moves_v8SendJm s false (.inl h)
  · rename_i h; exact moves_v8SendJm s true (.inr h)
  all_goals exact .refl

theorem moves_markerClear : Moves s (markerClear s) :=
  ((Move.receiver s 0#5 s.v8.ck s.v8.ckv s.v8.sync s.v8.zrun (.inl rfl)).moves.tail (.frmReset _ v8Codec)).tail
    (.receiver _ 0#5 s.v8.ck s.v8.ckv s.v8.sync 0#2 (.inl rfl))

theorem moves_v8Marker : Moves s (v8Marker s) := by
  have hck : ∀ (u : State) (ck : Word), Moves u { u with v8 := { u.v8 with ck := ck, ckv := true } } := fun u ck =>
    (Move.receiver u u.v8.rxlen ck true u.v8.sync u.v8.zrun (.inr rfl)).moves
  unfold v8Marker
  split
  · dsimp only
    refine Relation.ReflTransGen.trans ?_ (moves_markerClear _)
    split
    · exact ((moves_menuParse s _).trans (hck _ _)).trans (moves_v8Confirm _)
    · exact (moves_menuParse s _).trans (hck _ _)
  · exact moves_markerClear s

theorem moves_v8FrameBit (b : Bool) : Moves s (v8FrameBit b s) := by
  have hpush : Moves s (frmPush v8Codec b s).1 := (Move.frmPush s _ b).moves
  unfold v8FrameBit
  dsimp only
  split
  · exact hpush
  · have hstore := hpush.tail (.storeByte _ ‹Byte›)
    split
    · rename_i h
      exact hstore.trans (moves_v8Set_from _ h.1 rfl (by decide))
    · exact hstore

theorem moves_v8TakeBit (b : Bool) : Moves s (v8TakeBit b s) := by
  have hshift : Moves s { s with v8 := s.v8.shiftIn b } :=
    (Move.receiver s s.v8.rxlen s.v8.ck s.v8.ckv (s.v8.shiftIn b).sync s.v8.zrun (.inr rfl)).moves
  unfold v8TakeBit
  dsimp only
  split
  · exact hshift.trans (moves_v8Marker _)
  · exact hshift.trans (moves_v8FrameBit _ b)

theorem moves_v8PushRxBit (b : Bool) : Moves s (v8PushRxBit b s) := by
  unfold v8PushRxBit
  split
  iterate 4 exact moves_v8TakeBit s b
  all_goals exact .refl

/-! ### Tone transmitter -/

/-- What `tone_settle` leaves: a transmitter whose budget is not exhausted, or one that has ended, with the event and what the
V.8 engine makes of the end (`spec/42_tone_engine.md` R185). -/
inductive Settled (s : State) : State → Prop
  | loaded (t : ToneTx) (h : t.spent = false) : Settled s { s with tone := t }
  | ended (t : ToneTx) (id : Byte) (h : t.active = false) :
      Settled s (v8ToneDone (State.emit { s with tone := t } (.toneDone id)))

theorem settled_unspent (h : s.tone.spent = false) : Settled s s := .loaded s.tone h

theorem settled_toneEnd : Settled s (toneEnd s) := .ended _ _ rfl

/-- The registers of the transmitter do not matter for what a settled one is. -/
theorem Settled.of_tone {s r : State} {t : ToneTx} (h : Settled { s with tone := t } r) : Settled s r := by
  cases h with
  | loaded t' h' => exact .loaded t' h'
  | ended t' id h' => exact .ended t' id h'

/-- The loop on a tone that has no successor needs one turn. -/
theorem settled_loop_last (fuel : Nat) (h : s.tone.succ = 0#8) : Settled s (toneSettleLoop (fuel + 1) s) := by
  unfold toneSettleLoop
  split
  · rw [if_neg (not_not.mpr h)]
    exact settled_toneEnd s
  · rename_i h'
    exact settled_unspent s (by simpa using h')

/-- One more turn than the loop needs after a load. -/
theorem settled_loop_succ (fuel : Nat)
    (h : Settled (toneLoad s.tone.succ 0#32 s.tone.gain 0xFFFF#16 s)
      (toneSettleLoop fuel (toneLoad s.tone.succ 0#32 s.tone.gain 0xFFFF#16 s))) :
    Settled s (toneSettleLoop (fuel + 1) s) := by
  unfold toneSettleLoop
  split
  · split
    · exact h.of_tone
    · exact settled_toneEnd s
  · rename_i h'
    exact settled_unspent s (by simpa using h')

/-- A tone of the catalog has no successor, or the second part of the capability request (`spec/30_encoding.md` R104). -/
theorem toneDesc_succ (id : Nat) : (toneDesc id).succ = 0#8 ∨ (toneDesc id).succ = 0x1A#8 := by
  have hcat : ∀ d ∈ toneCatalog, d.succ = 0#8 ∨ d.succ = 0x1A#8 := by decide
  unfold toneDesc
  rw [params_tones, List.getD_eq_getElem?_getD]
  cases h : toneCatalog[id]? with
  | none => exact .inl rfl
  | some d => exact hcat d (List.mem_of_getElem? h)

theorem toneTx_budget_succ (t : ToneTx) (b : Option Word) : (t.budget b).succ = t.succ := by cases b <;> rfl

/-- The successor register after a load without an override is the descriptor's. -/
theorem toneLoadRegs_succ (srate : Word) (id : Byte) (total gain : Word) :
    (toneLoadRegs srate id total gain 0xFFFF#16).succ = (toneDesc id.toNat).succ := by
  simp only [toneLoadRegs, toneTx_budget_succ, if_true]

/-- `tone_settle` settles: a chain is a tone with an override, a tone of the catalog and the second part of the capability
request at most, far below the 34 turns of the loop. -/
theorem settled_toneSettle : Settled s (toneSettle s) := by
  refine settled_loop_succ s 33 (settled_loop_succ _ 32 ?_)
  rw [toneLoad_tone, toneLoadRegs_succ]
  rcases toneDesc_succ s.tone.succ.toNat with h | h
  · rw [h]
    exact settled_loop_last _ 31 (by rw [toneLoad_tone, toneLoadRegs_succ]; rfl)
  · rw [h]
    exact settled_loop_last _ 31 (by rw [toneLoad_tone, toneLoadRegs_succ]; rfl)

theorem spent_of_inactive {t : ToneTx} (h : t.active = false) : t.spent = false := by simp [ToneTx.spent, h]

theorem Settled.moves {s r : State} (h : Settled s r) : Moves s r := by
  cases h with
  | loaded t h => exact (Move.tone s t h).moves
  | ended t id h =>
    exact ((Move.tone s t (spent_of_inactive h)).moves.tail (.event _ _ rfl)).trans (moves_v8ToneDone _)

/-- The transmitter loaded with any registers, then settled. -/
theorem moves_loadSettle (t : ToneTx) : Moves s (toneSettle { s with tone := t }) :=
  (settled_toneSettle _).of_tone.moves

theorem moves_toneStart (id : Byte) (total gain : Word) (so : BitVec 16) : Moves s (toneStart id total gain so s) :=
  moves_loadSettle s _

theorem moves_toneStartF (f1 f2 total gain : Word) : Moves s (toneStartF f1 f2 total gain s) := moves_loadSettle s _

theorem moves_toneStop : Moves s (toneStop s) := (Move.tone s ToneTx.reset rfl).moves

theorem moves_toneSample : Moves s (toneSample s).1 := by
  unfold toneSample
  split
  · exact .refl
  · dsimp only
    split
    · exact moves_loadSettle s _
    · rename_i h
      exact (Move.tone s _ (by simpa [ToneTx.spent] using fun _ => by simpa using h)).moves

/-! ### V.8 sessions -/

theorem moves_v8SessionClear : Moves s (v8SessionClear s) :=
  ((Move.session s).moves.tail (.receiver _ 0#5 0#32 false 0x3FF#10 0#2 (.inl rfl))).tail (.frmReset _ v8Codec)

theorem moves_v8Start (role : Role) (tone : Byte) (h : schemeUsable s.srate Config.v8Scheme.toNat = true) :
    Moves s (v8Start role tone s) := by
  have hclear : Moves s { v8SessionClear s with v8 := { (v8SessionClear s).v8 with role := role } } :=
    (moves_v8SessionClear s).tail (.role _ role)
  unfold v8Start
  refine hclear.trans ?_
  cases role with
  | send =>
    exact (moves_v8Set _ (fun _ => by simp [phasePair]) (fun _ => by simpa using h)).trans (moves_toneStart _ _ _ _ _)
  | listen =>
    refine (moves_detCfg_getD _ (by decide)).trans (moves_v8Set _ (fun _ => by simp [phasePair]) (fun _ => ?_))
    rw [Moves.keeps State.srate (fun _ _ => Move.srate) (moves_detCfg_getD (ids := listenIds) _ (by decide))]
    simpa using h

theorem moves_v8TxSample : Moves s (v8TxSample s).1 := by
  unfold v8TxSample
  split
  · exact moves_toneSample s
  iterate 3 exact moves_modSample s moves_v8PopTxBit
  all_goals exact .refl

theorem moves_answerSeen (h : s.v8.phase = .rxAns) : Moves s (answerSeen s) := by
  have hsel := moves_selectV21 s 0#1 1#1 false (.inr h)
  have hp : (fskSetDirections 0#1 1#1 false (fskSelect Config.v8Scheme s)).v8.phase = .rxAns := by
    rw [fskSetDirections_v8]; simp [h]
  unfold answerSeen
  generalize fskSetDirections 0#1 1#1 false (fskSelect Config.v8Scheme s) = u at hsel hp
  exact hsel.trans (moves_v8Set_from u hp rfl (by decide))

theorem moves_v8RxLoop (fuel : Nat) (xs : List Word) : Moves s (v8RxLoop fuel xs s) := by
  induction fuel generalizing s xs with
  | zero => exact .refl
  | succ fuel ih =>
    cases xs with
    | nil => exact .refl
    | cons x xs =>
      have hdem : Moves s (v8RxLoop fuel xs (demSample v8PushRxBit x s)) :=
        (moves_demSample s (fun b u => moves_v8PushRxBit u b) x).trans (ih _ _)
      unfold v8RxLoop
      split
      · rename_i hp
        refine Relation.ReflTransGen.head (.detect s false (x :: xs)) (Relation.ReflTransGen.trans ?_ (ih _ _))
        split
        · exact moves_answerSeen _ (by simp [hp])
        · exact .refl
      iterate 4 exact hdem
      all_goals exact .refl

/-! ### Façade -/

theorem moves_goOffHook (t : Byte) (h : s.callState = .onHook) : Moves s (goOffHook t s) := by
  unfold goOffHook
  exact ((Move.offHook s t h).moves.trans (moves_toneStart _ t 0#32 Config.one 0xFFFF#16)).trans
    (moves_detCfg_getD (ids := dtmfIds) _ (by decide))

theorem moves_pullSample : Moves s (pullSample s).1 := by
  unfold pullSample
  split
  · exact .refl
  · exact .refl
  · exact moves_toneSample s
  · exact moves_v8TxSample s
  · exact moves_modSample s moves_dataPopTxBit

/-- A call state in which samples are searched for digits (`spec/46_facade_host.md` R334). -/
def digitState (s : State) : Prop := s.callState = .offHookIdle ∨ s.callState = .dialing

theorem digit_callState (h : digitState s) : (digit s).callState = .dialing := by
  unfold digit
  split
  · rfl
  · rename_i h'
    exact h.resolve_left h'

theorem moves_digit (h : digitState s) : Moves s (digit s) := by
  unfold digit
  split
  · rename_i hc
    exact ((moves_toneStop s).tail (.dial _ hc)).trans (moves_requestTimer _ .postDial rfl)
  · rename_i hc
    exact moves_requestTimer s .postDial (h.resolve_left hc)

theorem moves_pushDetectLoop (fuel : Nat) (xs : List Word) (h : digitState s) : Moves s (pushDetectLoop fuel xs s) := by
  induction fuel generalizing s xs with
  | zero => exact .refl
  | succ fuel ih =>
    cases xs with
    | nil => exact .refl
    | cons x xs =>
      have hd : digitState (detect true (x :: xs) s).1 := by simpa [digitState] using h
      unfold pushDetectLoop
      refine Relation.ReflTransGen.head (.detect s true (x :: xs)) ?_
      dsimp only
      split
      · exact (moves_digit _ hd).trans (ih _ _ (.inr (digit_callState _ hd)))
      · exact ih _ _ hd

theorem moves_pushBlock (xs : List Word) : Moves s (pushBlock xs s) := by
  unfold pushBlock
  split
  · exact .refl
  · rename_i h; exact moves_pushDetectLoop s _ xs (.inl h)
  · rename_i h; exact moves_pushDetectLoop s _ xs (.inr h)
  · exact moves_v8RxLoop s _ xs
  · exact moves_demBlock s (fun b u => moves_dataPushRxBit u b) xs

theorem moves_postDial (h : s.timerPending .postDial = true)
    (hs : schemeUsable s.srate Config.v8Scheme.toNat = true) : Moves s (postDial (s.clearTimer .postDial)) :=
  ((Move.answer s h).moves.tail (.detOff _)).trans (moves_v8Start _ _ _ hs)

end Sys2Proof.Proofs
end

section
/-! # Operations and steps as chains of moves -/

namespace Sys2Proof.Proofs

open Sys2Proof.Machine Sys2Proof.Laws

/-! ### Where an operation starts -/

/-- The state an operation makes its moves from: the state with an empty response, or what a re-initialisation or a
configuration write makes of it. -/
inductive Entry : Instr → State → State → Prop
  | plain (i : Instr) (s : State) (h : reinitialises i = false) : Entry i s s.begin
  | reset (s : State) : Entry .reset s (resetBlock s.begin)
  | setRate (hz : Word) (s : State) (h : hz ≠ 0#32) : Entry (.setRate hz) s { resetBlock s.begin with srate := hz }
  | setOnHook (s : State) : Entry .setOnHook s (goOnHook s.begin)
  | restart (tone : Byte) (s : State) : Entry (.restart tone) s (goOnHook s.begin)
  | order (k : Fin 3) (o : BitOrder) (s : State) :
      Entry (.frmCfg k o) s (s.begin.setCodec k.val { s.codecAt k.val with order := o })
  | addCap (item : Byte) (s u : State) (h : txCapAdd item s.begin = some u) : Entry (.v8AddCap item) s u

/-- All that an operation can do: refuse and change nothing, or start, make moves and answer. -/
inductive Ran (i : Instr) (s : State) : State → Prop
  | failed : Ran i s s.failed
  | illegal : Ran i s s.illegal
  | done {u v : State} (results samples : List Word) (entry : Entry i s u) (moves : Moves u v) :
      Ran i s (v.ok results samples)

variable {i : Instr} {s t u v : State} {results samples : List Word}

theorem ran_fail (h : answerFail s = .next t) : Ran i s t := by
  cases h
  exact .failed

theorem ran_illegal (h : answerIllegal s = .next t) : Ran i s t := by
  cases h
  exact .illegal

theorem ran_ok (entry : Entry i s u) (moves : Moves u v) (h : answerOk v results samples = .next t) : Ran i s t := by
  cases h
  exact .done results samples entry moves

/-- An operation that starts from the state as it is. -/
theorem ran_plain (hi : reinitialises i = false) (moves : Moves s.begin v)
    (h : answerOk v results samples = .next t) : Ran i s t := ran_ok (.plain i s hi) moves h

/-! ### One lemma per group of operations -/

theorem setRate_ran {hz : Word} (h : execSetRate hz s = .next t) : Ran (.setRate hz) s t := by
  unfold execSetRate at h
  split at h
  · exact ran_fail h
  · exact ran_ok (.setRate hz s ‹_›) .refl h

theorem rdReg_ran {index : BitVec 8} {id : BitVec 16} (h : execRdReg index id s = .next t) : Ran (.rdReg index id) s t := by
  unfold execRdReg at h
  split at h
  · exact ran_fail h
  · exact ran_plain rfl .refl h

theorem rdMem_ran {mem : BitVec 8} {addr : BitVec 16} (h : execRdMem mem addr s = .next t) :
    Ran (.rdMem mem addr) s t := by
  unfold execRdMem at h
  split at h
  · exact ran_fail h
  · exact ran_plain rfl .refl h

theorem gzInit_ran {w : Fin 16} {n : BitVec 16} {f : Word} (h : execGzInit w n f s = .next t) :
    Ran (.gzInit w n f) s t := by
  unfold execGzInit at h
  split at h
  · exact ran_fail h
  · exact ran_plain rfl (Move.gzInit _ _ _ _).moves h

theorem iqBuild_ran {k : Fin 4} {len : BitVec 16} {f : Word} (h : execIqBuild k len f s = .next t) :
    Ran (.iqBuild k len f) s t := by
  unfold execIqBuild at h
  split at h
  · exact ran_fail h
  · rename_i hlen
    simp only [ringSize_eq, not_or, not_lt] at hlen
    exact ran_plain rfl (Move.buildIq _ _ _ _ hlen.2).moves h

theorem frmLoad_ran {k : Fin 3} {b : Byte} (h : execFrmLoad k b s = .next t) : Ran (.frmLoad k b) s t := by
  unfold execFrmLoad at h
  split at h
  · exact ran_fail h
  · exact ran_plain rfl (moves_frmLoad _ ‹_›) h

theorem frmPush_ran {k : Fin 3} {b : Bool} (h : execFrmPush k b s = .next t) : Ran (.frmPush k b) s t := by
  unfold execFrmPush at h
  dsimp only at h
  split at h
  · exact ran_plain rfl (Move.frmPush _ _ b).moves h
  · exact ran_plain rfl (Move.frmPush _ _ b).moves h

theorem toneStart_ran {id : Byte} {so : BitVec 16} {total gain : Word} (h : execToneStart id so total gain s = .next t) :
    Ran (.toneStart id so total gain) s t := by
  unfold execToneStart at h
  split at h
  · exact ran_plain rfl (moves_toneStart _ _ _ _ _) h
  · exact ran_fail h

theorem detCfg_ran {ids : List Word} (h : execDetCfg ids s = .next t) : Ran (.detCfg ids) s t := by
  unfold execDetCfg at h
  split at h
  · exact ran_fail h
  · rename_i hids
    have hn : (ids.map BitVec.toNat).length ≤ 16 := by
      simp only [Config.detCandMax, not_or, not_lt] at hids
      simpa using hids.2.1
    split at h
    · exact ran_fail h
    · exact ran_plain rfl (moves_detCfg _ hn ‹_›) h

theorem fskSelect_ran {id : Byte} (h : execFskSelect id s = .next t) : Ran (.fskSelect id) s t := by
  unfold execFskSelect at h
  split at h
  · exact ran_fail h
  · rename_i hid
    refine ran_plain rfl (Move.select _ id ?_).moves h
    by_cases h0 : id = 0#8
    · exact .inl h0
    · exact .inr (.inl (by simpa [h0] using hid))

theorem channel_lt {c : Fin 2} {nch : BitVec 2} (h : ¬ nch.toNat ≤ c.val) : (BitVec.ofNat 1 c.val).toNat < nch.toNat := by
  have := c.isLt
  simp only [BitVec.toNat_ofNat]
  omega

theorem fskTxch_ran {c : Fin 2} (h : execFskTxch c s = .next t) : Ran (.fskTxch c) s t := by
  unfold execFskTxch at h
  split at h
  · exact ran_fail h
  · exact ran_plain rfl (Move.txch s.begin _ (channel_lt ‹_›)).moves h

theorem fskRxch_ran {c : Fin 2} (h : execFskRxch c s = .next t) : Ran (.fskRxch c) s t := by
  unfold execFskRxch at h
  split at h
  · exact ran_fail h
  · exact ran_plain rfl (Move.rxch s.begin _ (channel_lt ‹_›)).moves h

theorem txByte_ran {b : Byte} (h : execTxByte b s = .next t) : Ran (.txByte b) s t := by
  unfold execTxByte at h
  split at h
  · exact ran_fail h
  · exact ran_plain rfl (moves_txqPut _ ‹_›) h

theorem v8Start_ran {role : Role} {tone : BitVec 16} (h : execV8Start role tone s = .next t) :
    Ran (.v8Start role tone) s t := by
  unfold execV8Start at h
  split at h
  · exact ran_illegal h
  · split at h
    · exact ran_fail h
    · split at h
      · exact ran_fail h
      · rename_i hu
        exact ran_plain rfl (moves_v8Start s.begin role _ (by simpa using hu)) h

theorem v8AddCap_ran {item : Byte} (h : execV8AddCap item s = .next t) : Ran (.v8AddCap item) s t := by
  unfold execV8AddCap at h
  split at h
  · exact ran_fail h
  · exact ran_ok (.addCap item s _ ‹_›) .refl h

theorem moves_v8Stop (s : State) : Moves s (v8Set .stopped s) :=
  moves_v8Set s (fun _ => by simp [phasePair]) (by simp)

theorem restart_ran {tone : Byte} (h : execRestart tone s = .next t) : Ran (.restart tone) s t := by
  unfold execRestart at h
  split at h
  · exact ran_ok (.restart tone s) (moves_goOffHook _ tone rfl) h
  · exact ran_fail h

theorem setOffHook_ran {tone : Byte} (h : execSetOffHook tone s = .next t) : Ran (.setOffHook tone) s t := by
  unfold execSetOffHook at h
  split at h
  · exact ran_fail h
  · rename_i hc
    exact ran_plain rfl (moves_goOffHook s.begin tone (by simpa using (not_or.mp hc).1)) h

theorem serialBit_ran {b : Bool} (h : execSerialBit b s = .next t) : Ran (.serialBit b) s t := by
  have hpush : Moves s.begin (frmPush dteCodec b s.begin).1 := (Move.frmPush _ _ b).moves
  unfold execSerialBit at h
  dsimp only at h
  split at h
  · refine ran_plain rfl (hpush.trans ?_) h
    split
    · exact moves_txqOffer _ _
    · exact .refl
  · exact ran_plain rfl hpush h

theorem timerFire_ran {w : Timer} (h : execTimerFire w s = .next t) : Ran (.timerFire w) s t := by
  unfold execTimerFire at h
  split at h
  · exact ran_fail h
  · rename_i hpend
    split at h
    · split at h
      · exact ran_fail h
      · rename_i hu
        have hp : s.timerPending .postDial = true := by simpa using hpend
        exact ran_plain rfl (moves_postDial s.begin hp (by simpa using hu)) h
    · exact ran_plain rfl ((Move.clearPreData s.begin).moves.trans (moves_bootstrap _)) h

/-! ### Every operation -/

/-- Every operation refuses, or starts, makes moves and answers `OK`. -/
theorem exec_ran (i : Instr) (s t : State) (h : exec i s = .next t) : Ran i s t := by
  cases i with
  | nop => exact ran_plain rfl .refl (v := s.begin) h
  | reset => exact ran_ok (.reset s) .refl h
  | setRate hz => exact setRate_ran h
  | getRate => exact ran_plain rfl .refl (v := s.begin) h
  | rdReg index id => exact rdReg_ran h
  | rdMem mem addr => exact rdMem_ran h
  | phaseInc f => exact ran_plain rfl .refl (v := s.begin) h
  | phaseInv => exact ran_plain rfl .refl (v := s.begin) h
  | sine ph => exact ran_plain rfl .refl (v := s.begin) h
  | gzInit u n f => exact gzInit_ran h
  | gzAcc u xs => exact ran_plain rfl (moves_gzAcc _ _ _) h
  | gzPower u => exact ran_plain rfl (moves_gzPowerClear _ _) h
  | iqBuild k len f => exact iqBuild_ran h
  | correlate k q start => exact ran_plain rfl .refl (v := s.begin) h
  | frmCfg k o => exact ran_ok (.order k o s) .refl h
  | frmLoad k b => exact frmLoad_ran h
  | frmPop k => exact ran_plain rfl (Move.frmPop _ k.val).moves h
  | frmPush k b => exact frmPush_ran h
  | frmReset k => exact ran_plain rfl (Move.frmReset _ k.val).moves h
  | toneStart id so total gain => exact toneStart_ran h
  | toneStartF f1 f2 total gain => exact ran_plain rfl (moves_toneStartF _ _ _ _ _) h
  | toneTx count => exact ran_plain rfl (moves_synth moves_toneSample _ _) h
  | toneStop => exact ran_plain rfl (moves_toneStop _) h
  | detCfg ids => exact detCfg_ran h
  | detSingle xs => exact ran_plain rfl (Move.detect _ false xs).moves h
  | detDual xs => exact ran_plain rfl (Move.detect _ true xs).moves h
  | detReset => exact ran_plain rfl (moves_detClear _) h
  | fskSelect id => exact fskSelect_ran h
  | fskTxch c => exact fskTxch_ran h
  | fskRxch c => exact fskRxch_ran h
  | fskTxen e => exact ran_plain rfl (Move.txen s.begin e).moves h
  | fskTx count => exact ran_plain rfl (moves_synth (fun u => moves_modSample u moves_dataPopTxBit) _ _) h
  | fskRx xs => exact ran_plain rfl (moves_demBlock _ (fun b u => moves_dataPushRxBit u b) xs) h
  | txByte b => exact txByte_ran h
  | dataPopTxBit => exact ran_plain rfl (moves_dataPopTxBit _) h
  | dataPushRxBit b => exact ran_plain rfl (moves_dataPushRxBit _ b) h
  | v8Start role tone => exact v8Start_ran h
  | v8Stop => exact ran_plain rfl (moves_v8Stop _) h
  | v8AddCap item => exact v8AddCap_ran h
  | v8GetTxcaps => exact ran_plain rfl .refl (v := s.begin) h
  | v8GetRxcaps => exact ran_plain rfl .refl (v := s.begin) h
  | v8Tx count => exact ran_plain rfl (moves_synth moves_v8TxSample _ _) h
  | v8Rx xs => exact ran_plain rfl (moves_v8RxLoop _ _ xs) h
  | v8PopTxBit => exact ran_plain rfl (moves_v8PopTxBit _) h
  | v8PushRxBit b => exact ran_plain rfl (moves_v8PushRxBit _ b) h
  | restart tone => exact restart_ran h
  | isOnHook => exact ran_plain rfl .refl (v := s.begin) h
  | setOnHook => exact ran_ok (.setOnHook s) .refl h
  | setOffHook tone => exact setOffHook_ran h
  | pull count => exact ran_plain rfl (moves_synth moves_pullSample _ _) h
  | push xs => exact ran_plain rfl (moves_pushBlock _ xs) h
  | serialBit b => exact serialBit_ran h
  | timerFire w => exact timerFire_ran h

/-! ### Invariants -/

/-- What makes a property an invariant between operations: it does not look at the ports, it holds after reset at every rate,
the writes that start an operation keep it, and so does every move. -/
structure Kept (p : State → Prop) : Prop where
  ports : ∀ (s : State) (frames : List Frame) (r : Response), p s → p { s with pending := frames, resp := r }
  reset : ∀ hz : Word, hz ≠ 0#32 → p { State.reset with srate := hz }
  onHook : ∀ s, p s → p (goOnHook s)
  order : ∀ s (k : Nat) (o : BitOrder), p s → p (s.setCodec k { s.codecAt k with order := o })
  addCap : ∀ s i u, txCapAdd i s = some u → p s → p u
  move : ∀ s t, Move s t → p s → p t

variable {p : State → Prop}

theorem Kept.begin (hp : Kept p) (hs : p s) : p s.begin := hp.ports s s.pending Response.empty hs

theorem Kept.entry (hp : Kept p) (h : Entry i s u) (hs : p s) : p u := by
  cases h with
  | plain i s h => exact hp.begin hs
  | reset s => exact hp.ports _ s.pending Response.empty (hp.reset 16000#32 (by decide))
  | setRate hz s h => exact hp.ports _ s.pending Response.empty (hp.reset hz h)
  | setOnHook s => exact hp.onHook _ (hp.begin hs)
  | restart tone s => exact hp.onHook _ (hp.begin hs)
  | order k o s => exact hp.order _ k.val o (hp.begin hs)
  | addCap item s u h => exact hp.addCap _ item _ h (hp.begin hs)

theorem Kept.ran (hp : Kept p) (h : Ran i s t) (hs : p s) : p t := by
  cases h with
  | failed => exact hp.ports s s.pending _ hs
  | illegal => exact hp.ports s s.pending _ hs
  | done r y he hm => exact hp.ports _ _ _ (hm.inv hp.move (hp.entry he hs))

/-- A step does nothing, rejects a frame, or runs an instruction on the state without its frame. -/
theorem step_cases (h : step s = .next t) :
    t = s ∨ ∃ frames : List Frame, t = State.illegal { s with pending := frames } ∨
      ∃ i, exec i { s with pending := frames } = .next t := by
  unfold step State.takeFrame at h
  cases hf : s.pending with
  | nil =>
    simp only [hf] at h
    cases h
    exact .inl rfl
  | cons f rest =>
    simp only [hf] at h
    refine .inr ⟨rest, ?_⟩
    split at h
    · exact .inr ⟨_, h⟩
    · unfold answerDecodeError answerIllegal at h
      split at h <;> cases h <;> exact .inl rfl

/-- Every step keeps an invariant. -/
theorem Kept.step (hp : Kept p) (hs : p s) (h : Machine.step s = .next t) : p t := by
  have hport : ∀ frames, p { s with pending := frames } := fun frames => hp.ports s frames s.resp hs
  obtain rfl | ⟨frames, rfl | ⟨i, hi⟩⟩ := step_cases h
  · exact hs
  · exact hp.ports _ _ _ (hport frames)
  · exact hp.ran (exec_ran i _ t hi) (hport frames)

theorem Kept.reset_holds (hp : Kept p) : p State.reset := hp.reset 16000#32 (by decide)

/-! ### Ways to an invariant -/

theorem Kept.congr {q : State → Prop} (hp : Kept p) (h : ∀ s, p s ↔ q s) : Kept q := by
  have hpq : p = q := funext fun s => propext (h s)
  exact hpq ▸ hp

theorem Kept.and {q : State → Prop} (hp : Kept p) (hq : Kept q) : Kept (fun s => p s ∧ q s) where
  ports s frames r h := ⟨hp.ports s frames r h.1, hq.ports s frames r h.2⟩
  reset hz h := ⟨hp.reset hz h, hq.reset hz h⟩
  onHook s h := ⟨hp.onHook s h.1, hq.onHook s h.2⟩
  order s k o h := ⟨hp.order s k o h.1, hq.order s k o h.2⟩
  addCap s i u hu h := ⟨hp.addCap s i u hu h.1, hq.addCap s i u hu h.2⟩
  move s t hm h := ⟨hp.move s t hm h.1, hq.move s t hm h.2⟩

/-- A part of the state outside the ports, the codecs and the V.8 registers: what is left to show is the reset value, what going
on hook makes of it, and the moves. -/
theorem Kept.part {β : Type} (g : State → β) {P : β → Prop}
    (hg : ∀ (s : State) frames r c v, g { s with pending := frames, resp := r, codec := c, v8 := v } = g s)
    (hreset : ∀ hz : Word, P (g { State.reset with srate := hz })) (hhook : ∀ s, P (g (goOnHook s)))
    (hmove : ∀ s t, Move s t → P (g s) → P (g t)) : Kept (fun s => P (g s)) where
  ports s frames r h := (hg s frames r s.codec s.v8).symm ▸ h
  reset hz _ := hreset hz
  onHook s _ := hhook s
  order s k o h := (hg s s.pending s.resp (vset s.codec k { s.codecAt k with order := o }) s.v8).symm ▸ h
  addCap s i u hu h := by
    obtain ⟨-, rfl⟩ := (txCapAdd_eq_some s i u).mp hu
    exact (hg s s.pending s.resp s.codec _).symm ▸ h
  move := hmove

end Sys2Proof.Proofs
end

section
/-! # What one move does, unit by unit -/

namespace Sys2Proof.Proofs

open Sys2Proof.Machine Sys2Proof.Laws

/-! ### Elements of a register array -/

/-- A property of every element, with the index as a number. -/
theorem forall_vget {α : Type} {n : Nat} {P : α → Prop} {v : Vector α n} {d : α} (hd : P d) :
    (∀ i : Nat, P (vget v d i)) ↔ ∀ i : Fin n, P v[i] := by
  constructor
  · intro h i
    rw [← vget_fin v d i]
    exact h i.val
  · intro h i
    by_cases hi : i < n
    · rw [vget_eq v d hi]
      exact h ⟨i, hi⟩
    · rw [vget_out v d (not_lt.mp hi)]
      exact hd

variable {s t : State}

/-! ### Codecs -/

/-- What a move makes of one codec. -/
inductive CodecStep : Codec → Codec → Prop
  | same (c : Codec) : CodecStep c c
  | load (c : Codec) (b : Byte) (h : c.bn = 0#4) : CodecStep c { c with bframe := frameBits b c.order, bn := 10#4 }
  | pop (c : Codec) : CodecStep c c.pop.1
  | push (c : Codec) (b : Bool) : CodecStep c (c.push b).1
  | clear (c : Codec) : CodecStep c c.clear

theorem codecStep_setCodec (s : State) (k j : Nat) {c : Codec} (h : CodecStep (s.codecAt k) c) :
    CodecStep (s.codecAt j) ((s.setCodec k c).codecAt j) := by
  rw [codecAt_setCodec]
  split
  · rename_i hk
    rw [← hk.1]
    exact h
  · exact .same _

theorem codecAt_congr (h : t.codec = s.codec) (k : Nat) : t.codecAt k = s.codecAt k := by
  rw [State.codecAt, h, State.codecAt]

theorem codecStep_of_codec (h : t.codec = s.codec) (k : Nat) : CodecStep (s.codecAt k) (t.codecAt k) := by
  rw [codecAt_congr h]
  exact .same _

/-- A selection resets the `LINE` codec. -/
theorem fskSelect_codec (s : State) (id : Byte) : (fskSelect id s).codec = (frmReset lineCodec s).codec := by
  have hc : (fskClear s).codec = (frmReset lineCodec s).codec := by
    have hfold : ∀ u : State, ((List.range Config.iqTables).foldl clearIqLen u).codec = u.codec :=
      fun u => foldl_keeps State.codec clearIqLen (by simp) _ u
    simp only [fskClear, txqClear_codec, frmReset, setCodec_codec, State.codecAt, hfold]
  unfold fskSelect
  by_cases hid : id = 0#8
  · simp [hid, hc]
  · simp only [hid, if_false]
    rw [foldl_keeps State.codec (fskSetChannel _) (by simp), hc]

/-- Every move keeps a codec or makes one step of it. -/
theorem Move.codecAt (h : Move s t) (k : Nat) : CodecStep (s.codecAt k) (t.codecAt k) := by
  cases h with
  | frmLoad j b hbn => exact codecStep_setCodec s j k (.load _ b hbn)
  | frmPop j => exact codecStep_setCodec s j k (.pop _)
  | frmPush j b => exact codecStep_setCodec s j k (.push _ b)
  | frmReset j => exact codecStep_setCodec s j k (.clear _)
  | select id hid =>
    rw [codecAt_congr (fskSelect_codec s id) k]
    exact codecStep_setCodec s lineCodec k (.clear _)
  | _ => exact codecStep_of_codec (by simp) k

theorem goOnHook_codecAt (s : State) (k : Nat) : (goOnHook s).codecAt k = (s.codecAt k).clear := by
  by_cases hk : k < 3
  · exact vget_vecOf _ _ hk
  · simp [State.codecAt, vget_out _ _ (not_lt.mp hk), Codec.clear, Codec.reset]

/-- A property of every codec that a configuration and every step of a codec keep. -/
theorem Kept.codecs {P : Codec → Prop} (hreset : P Codec.reset) (horder : ∀ c o, P c → P { c with order := o })
    (hstep : ∀ c c', CodecStep c c' → P c → P c') : Kept (fun s => ∀ k : Nat, P (s.codecAt k)) where
  ports _ _ _ h := h
  reset _ _ := (forall_vget hreset).mpr (fun k => by simpa [State.reset] using hreset)
  onHook s h k := by
    rw [goOnHook_codecAt]
    exact hstep _ _ (.clear _) (h k)
  order s j o h k := by
    rw [codecAt_setCodec]
    split
    · exact horder _ o (h j)
    · exact h k
  addCap s i u hu h := by
    obtain ⟨-, rfl⟩ := (txCapAdd_eq_some s i u).mp hu
    exact h
  move s t hm h k := hstep _ _ (hm.codecAt k) (h k)

theorem codecStep_order {c c' : Codec} (h : CodecStep c c') : c'.order = c.order := by
  cases h <;> simp

/-! ### Goertzel units -/

/-- The coefficients of the bank. -/
def coeffs (s : State) (u : Nat) : BitVec 32 := (s.gzAt u).coeff

theorem coeffs_congr (h : t.gz = s.gz) : coeffs t = coeffs s := by
  funext u
  rw [coeffs, State.gzAt, h, coeffs, State.gzAt]

theorem coeffs_setGz (s : State) {u : Nat} {g : Goertzel} (h : g.coeff = (s.gzAt u).coeff) :
    coeffs (s.setGz u g) = coeffs s := by
  funext j
  rw [coeffs, gzAt_setGz]
  split
  · rename_i hj
    rw [h, hj.1, coeffs]
  · rfl

theorem coeffs_detClearUnits (s : State) : coeffs (detClearUnits s) = coeffs s :=
  foldl_keeps coeffs detClearUnit (fun t _ => coeffs_setGz t (by rfl)) _ s

theorem coeffs_detStep (dual : Bool) (s : State) (x : Word) : coeffs (detStep dual s x) = coeffs s :=
  foldl_keeps coeffs _ (fun t _ => coeffs_setGz t (by rfl)) (fedUnits s dual) s

theorem coeffs_detFinish (dual : Bool) (used : Nat) (s : State) : coeffs (detFinish dual used s).1 = coeffs s := by
  rw [← coeffs_detClearUnits s]
  exact coeffs_congr (by simp [detFinish])

/-- Samples into the classifier keep every coefficient. -/
theorem coeffs_detect (s : State) (dual : Bool) (xs : List Word) : coeffs (detect dual xs s).1 = coeffs s := by
  have hsteps : ∀ ys : List Word, coeffs (ys.foldl (detStep dual) s) = coeffs s :=
    fun ys => foldl_keeps coeffs (detStep dual) (coeffs_detStep dual) ys s
  unfold detect
  split
  · rfl
  · dsimp only
    split
    · exact hsteps _
    · rw [coeffs_detFinish, hsteps]

/-- Every move keeps a coefficient or sets it to one that the initialisation of a unit computes. -/
theorem Move.coeff (h : Move s t) (u : Nat) :
    coeffs t u = coeffs s u ∨ ∃ f n, coeffs t u = BitVec.ofInt 32 (goertzelCoeff f s.srate.toNat n) := by
  cases h with
  | gzInit w f n =>
    rw [coeffs, Machine.gzInit, gzAt_setGz]
    split
    · exact .inr ⟨f, n, rfl⟩
    · exact .inl rfl
  | gzTaps w g hg => exact .inl (congrFun (coeffs_setGz s hg) u)
  | detect dual xs => exact .inl (congrFun (coeffs_detect s dual xs) u)
  | _ => exact .inl (congrFun (coeffs_congr (by simp)) u)

/-! ### Tone classifier -/

theorem detStep_det (dual : Bool) (s : State) (x : Word) :
    (detStep dual s x).det = { s.det with fill := s.det.fill + 1#16 } := by
  have h : ((fedUnits s dual).foldl (fun t u => goertzelStep u (sampleInt x) t) s).det = s.det :=
    foldl_keeps State.det _ (by simp) _ s
  simp [detStep, h]

/-- The counts of a configuration and a block that is not full, from one classifier to the next. -/
structure DetStep (d d' : Detector) : Prop where
  n : d.n.toNat ≤ 16 → d'.n.toNat ≤ 16
  na : d.na.toNat ≤ 8 → d'.na.toNat ≤ 8
  nb : d.nb.toNat ≤ 8 → d'.nb.toNat ≤ 8
  fill : d.fill.toNat < 256 → d'.fill.toNat < 256

theorem DetStep.refl (d : Detector) : DetStep d d := ⟨id, id, id, id⟩

/-- The same configuration, with a block that is not full. -/
theorem detStep_of_same {d d' : Detector} (hn : d'.n = d.n) (ha : d'.na = d.na) (hb : d'.nb = d.nb)
    (hf : d'.fill.toNat < 256) : DetStep d d' :=
  ⟨fun h => hn ▸ h, fun h => ha ▸ h, fun h => hb ▸ h, fun _ => hf⟩

theorem detect_detStep (s : State) (dual : Bool) (xs : List Word) : DetStep s.det (detect dual xs s).1.det := by
  have hfold : ∀ {β : Type} (g : Detector → β) (_ : ∀ d f, g { d with fill := f } = g d) (ys : List Word),
      g (ys.foldl (detStep dual) s).det = g s.det := fun g hg ys =>
    foldl_keeps (fun u => g u.det) (detStep dual) (fun u x => by rw [detStep_det, hg]) ys s
  unfold detect
  split
  · exact .refl _
  · dsimp only
    split
    · rename_i hfill
      exact detStep_of_same (hfold _ (by simp) _) (hfold _ (by simp) _) (hfold _ (by simp) _) (by simpa using hfill)
    · refine detStep_of_same ?_ ?_ ?_ (by simp [detFinish])
      · simpa [detFinish] using hfold Detector.n (by simp) _
      · simpa [detFinish] using hfold Detector.na (by simp) _
      · simpa [detFinish] using hfold Detector.nb (by simp) _

theorem Move.det (h : Move s t) : DetStep s.det t.det := by
  cases h with
  | detRegs ids hn ha hb =>
    refine ⟨fun _ => ?_, fun _ => ?_, fun _ => ?_, fun _ => by simp [Machine.detRegs]⟩ <;>
    · simp only [Machine.detRegs, BitVec.toNat_ofNat]
      omega
  | detect dual xs => exact detect_detStep s dual xs
  | detRestart => exact detStep_of_same rfl rfl rfl (by simp)
  | detOff => exact ⟨fun _ => by simp [Detector.reset], fun _ => by simp [Detector.reset],
      fun _ => by simp [Detector.reset], fun _ => by simp [Detector.reset]⟩
  | _ => simpa using DetStep.refl s.det

/-! ### Tone transmitter -/

theorem Move.tone_or (h : Move s t) : t.tone = s.tone ∨ t.tone.spent = false := by
  cases h with
  | tone r hr => exact .inr hr
  | _ => exact .inl (by simp)

/-! ### V.8 registers -/

/-- Adding to the receive set writes the set and its count alone. -/
@[simp] theorem rxCapAdd_v8_keeps (s : State) (i : Byte) :
    (rxCapAdd s i).v8.phase = s.v8.phase ∧ (rxCapAdd s i).v8.ntx = s.v8.ntx ∧
    (rxCapAdd s i).v8.txcaps = s.v8.txcaps ∧ (rxCapAdd s i).v8.rxlen = s.v8.rxlen ∧
    (rxCapAdd s i).v8.outlen = s.v8.outlen ∧ (rxCapAdd s i).v8.cursor = s.v8.cursor := by
  unfold rxCapAdd
  split <;> simp

/-- Storing a received byte keeps both sets, the phase and the outgoing side. -/
@[simp] theorem v8StoreByte_v8_keeps (s : State) (b : Byte) :
    (v8StoreByte b s).v8.phase = s.v8.phase ∧ (v8StoreByte b s).v8.ntx = s.v8.ntx ∧
    (v8StoreByte b s).v8.txcaps = s.v8.txcaps ∧ (v8StoreByte b s).v8.nrx = s.v8.nrx ∧
    (v8StoreByte b s).v8.rxcaps = s.v8.rxcaps ∧ (v8StoreByte b s).v8.outlen = s.v8.outlen ∧
    (v8StoreByte b s).v8.cursor = s.v8.cursor := by
  unfold v8StoreByte
  dsimp only
  split <;> simp

/-- Moving the cursor keeps the other V.8 registers. -/
theorem v8NextBit_v8 (s : State) :
    (v8NextBit s).1.v8 = { s.v8 with cursor := BitVec.ofNat 16 ((s.v8.cursor.toNat + 1) % seqLen s) } := rfl

/-- Storing a byte counts it while there is room (`spec/44_v8_engine.md` R282). -/
theorem v8StoreByte_rxlen (s : State) (b : Byte) :
    (v8StoreByte b s).v8.rxlen = if s.v8.rxlen.toNat < 16 then s.v8.rxlen + 1#5 else s.v8.rxlen := by
  by_cases h : s.v8.rxlen.toNat < 16 <;> simp [v8StoreByte, h]

/-- No move writes the transmit capability set. -/
theorem Move.txcaps (h : Move s t) : t.v8.ntx = s.v8.ntx ∧ t.v8.txcaps = s.v8.txcaps := by
  cases h <;> simp [v8LoadMenu_v8, v8NextBit_v8]

theorem Move.txItems (h : Move s t) : txItems t = txItems s := by
  rw [Machine.txItems, h.txcaps.1, h.txcaps.2, Machine.txItems]

/-! ### Capability sets -/

/-- What an operation makes of a capability set: it is kept, emptied, or gets an item that `cap_add` accepts. -/
inductive ItemsStep (l : List Byte) : List Byte → Prop
  | same : ItemsStep l l
  | clear : ItemsStep l []
  | add (i : Byte) (h : capAccepts l i = true) : ItemsStep l (l ++ [i])

theorem capAccepts_iff (l : List Byte) (i : Byte) :
    capAccepts l i = true ↔ itemValid i = true ∧ i ∉ l ∧ l.length ≠ 16 := by
  rw [capAccepts, Bool.and_eq_true, Bool.and_eq_true, decide_eq_true_iff, and_assoc]
  simp

/-- A word stored behind the first `n` words. -/
theorem ramTake_ramWrite_end {w : Nat} (m : Ram w) (n : Nat) (v : BitVec w) :
    ramTake (ramWrite m n v) (n + 1) = ramTake m n ++ [v] := by
  rw [ramTake_succ, ramRead_ramWrite_same]
  congr 1
  refine ramTake_congr _ _ _ (fun i hi => ?_)
  rw [ramRead_ramWrite, if_neg (by omega)]

/-- An accepted item stands at the end of the set after it is stored there and counted. -/
theorem ramTake_add {m : Ram 8} {n : BitVec 5} {i : Byte} (hn : n.toNat ≤ 16)
    (h : capAccepts (ramTake m n.toNat) i = true) :
    ramTake (ramWrite m n.toNat i) (n + 1#5).toNat = ramTake m n.toNat ++ [i] := by
  have hlen := ((capAccepts_iff _ i).mp h).2.2
  rw [ramTake_length] at hlen
  rw [show (n + 1#5).toNat = n.toNat + 1 by bv_omega, ramTake_ramWrite_end]

theorem itemsStep_add {m : Ram 8} {n : BitVec 5} {i : Byte} (hn : n.toNat ≤ 16)
    (h : capAccepts (ramTake m n.toNat) i = true) :
    ItemsStep (ramTake m n.toNat) (ramTake (ramWrite m n.toNat i) (n + 1#5).toNat) := by
  rw [ramTake_add hn h]
  exact .add i h

theorem txCapAdd_items {i : Byte} (hn : s.v8.ntx.toNat ≤ 16) (h : txCapAdd i s = some t) :
    ItemsStep (txItems s) (txItems t) ∧ rxItems t = rxItems s := by
  obtain ⟨hacc, rfl⟩ := (txCapAdd_eq_some s i t).mp h
  exact ⟨itemsStep_add hn hacc, rfl⟩

theorem rxCapAdd_items (s : State) (i : Byte) (hn : s.v8.nrx.toNat ≤ 16) :
    ItemsStep (rxItems s) (rxItems (rxCapAdd s i)) := by
  unfold rxCapAdd
  split
  · exact itemsStep_add hn ‹_›
  · exact .same

theorem rxItems_congr (hn : t.v8.nrx = s.v8.nrx) (hm : t.v8.rxcaps = s.v8.rxcaps) :
    ItemsStep (rxItems s) (rxItems t) := by
  rw [show rxItems t = rxItems s by rw [rxItems, hn, hm, rxItems]]
  exact .same

theorem Move.rxItems (h : Move s t) (hn : s.v8.nrx.toNat ≤ 16) : ItemsStep (rxItems s) (rxItems t) := by
  cases h with
  | session => exact .clear
  | rxCapAdd i => exact rxCapAdd_items s i hn
  | _ => exact rxItems_congr (by simp [v8LoadMenu_v8, v8NextBit_v8]) (by simp [v8LoadMenu_v8, v8NextBit_v8])

/-! ### Table and symbol lengths -/

/-- The ranges of `IQ_LEN` and `FSK_SYMLEN` (`spec/10_state.md` R26, R40). -/
def lengthsOk (s : State) : Prop :=
  (∀ k : Nat, (s.iqAt k).len.toNat ≤ 512) ∧ ∀ c : Nat, (s.chanAt c).symlen.toNat ≤ 512

theorem lengthsOk_congr (hs : lengthsOk s) (hi : t.iq = s.iq) (hc : t.chan = s.chan) : lengthsOk t := by
  unfold lengthsOk State.iqAt State.chanAt
  rw [hi, hc]
  exact hs

theorem lengthsOk_setIq (hs : lengthsOk s) (k : Nat) {x : IqTable} (hx : x.len.toNat ≤ 512) :
    lengthsOk (s.setIq k x) := by
  refine ⟨fun j => ?_, hs.2⟩
  rw [iqAt_setIq]
  split
  · exact hx
  · exact hs.1 j

theorem lengthsOk_setChan (hs : lengthsOk s) (c : Nat) {x : FskChannel} (hx : x.symlen.toNat ≤ 512) :
    lengthsOk (s.setChan c x) := by
  refine ⟨hs.1, fun j => ?_⟩
  rw [chanAt_setChan]
  split
  · exact hx
  · exact hs.2 j

theorem ofNat16_le {len : Nat} (h : len ≤ 512) : (BitVec.ofNat 16 len).toNat ≤ 512 := by
  rw [BitVec.toNat_ofNat]
  omega

theorem lengthsOk_buildIq (hs : lengthsOk s) (k f : Nat) {len : Nat} (h : len ≤ 512) : lengthsOk (buildIq k f len s) :=
  lengthsOk_setIq hs k (ofNat16_le h)

theorem lengthsOk_fskClear (hs : lengthsOk s) : lengthsOk (fskClear s) := by
  have hchan : lengthsOk { s with
      fsk := { FskRegs.reset with txen := s.fsk.txen }, chan := Vector.replicate _ FskChannel.reset } :=
    ⟨hs.1, (forall_vget (P := fun x : FskChannel => x.symlen.toNat ≤ 512) (by decide)).mpr
      (fun c => by simp [FskChannel.reset])⟩
  have hfold := foldl_inv lengthsOk clearIqLen (fun u k hu => lengthsOk_setIq hu k (by simp)) (List.range Config.iqTables)
    _ hchan
  unfold fskClear
  exact lengthsOk_congr hfold (by simp) (by simp)

theorem lengthsOk_fskSetChannel (hs : lengthsOk s) (d : SchemeDesc) {c : Nat}
    (h : symlen s.srate (d.chan c).baud ≤ 512) : lengthsOk (fskSetChannel d s c) :=
  lengthsOk_buildIq (lengthsOk_buildIq (lengthsOk_setChan hs c (ofNat16_le h)) _ _ h) _ _ h

theorem symlen_of_usable {srate : Word} {id c : Nat} (h : schemeUsable srate id = true) (hc : c < (schemeDesc id).nch) :
    symlen srate ((schemeDesc id).chan c).baud ≤ 512 := by
  simp only [schemeUsable, symlenUsable, Bool.and_eq_true, List.all_eq_true, List.mem_range, decide_eq_true_eq] at h
  exact (h.2 c hc).2

theorem lengthsOk_fskSelect (hs : lengthsOk s) {id : Byte} (h : id = 0#8 ∨ schemeUsable s.srate id.toNat = true) :
    lengthsOk (fskSelect id s) := by
  have hclear := lengthsOk_fskClear hs
  unfold fskSelect
  split
  · exact hclear
  · rename_i hid
    have hu := h.resolve_left hid
    have hfold : ((List.range (schemeDesc id.toNat).nch).foldl (fskSetChannel (schemeDesc id.toNat)) (fskClear s)).srate =
        s.srate ∧ lengthsOk
          ((List.range (schemeDesc id.toNat).nch).foldl (fskSetChannel (schemeDesc id.toNat)) (fskClear s)) :=
      List.foldlRecOn (motive := fun u : State => u.srate = s.srate ∧ lengthsOk u) _ _ ⟨by simp, hclear⟩
        (fun u hu' c hc => ⟨by simpa using hu'.1, lengthsOk_fskSetChannel hu'.2 _
          (hu'.1 ▸ symlen_of_usable hu (List.mem_range.mp hc))⟩)
    exact lengthsOk_congr hfold.2 rfl rfl

/-- A scheme that can be selected is usable, where the start of the session checked V21. -/
theorem usable_of_selectable {id : Byte} (hstart : s.startOk) (h : selectable s id) :
    id = 0#8 ∨ schemeUsable s.srate id.toNat = true := by
  rcases h with h | h | ⟨rfl, hp⟩
  · exact .inl h
  · exact .inr h
  · exact .inr (hstart hp)

theorem Move.lengthsOk (h : Move s t) (hstart : s.startOk) (hs : lengthsOk s) : lengthsOk t := by
  cases h with
  | buildIq k f len hlen => exact lengthsOk_buildIq hs k f hlen
  | select id hid => exact lengthsOk_fskSelect hs (usable_of_selectable hstart hid)
  | chan c x hx => exact lengthsOk_setChan hs c (hx ▸ hs.2 c)
  | ringStore c v => exact lengthsOk_setChan hs c (hs.2 c)
  | _ => exact lengthsOk_congr hs (by simp) (by simp)

theorem Move.startOk (h : Move s t) (hs : s.startOk) : t.startOk := by
  have hrate := h.srate
  cases h with
  | phase p hne hrow hstart => exact hstart
  | _ =>
    unfold State.startOk at hs ⊢
    rw [hrate]
    simpa [v8LoadMenu_v8, v8NextBit_v8] using hs

/-! ### The byte queue -/

theorem fskSelect_txq_count (s : State) (id : Byte) : (fskSelect id s).txq.count = 0#7 := by
  have hc : (fskClear s).txq.count = 0#7 := rfl
  unfold fskSelect
  split
  · exact hc
  · dsimp only
    rw [foldl_keeps State.txq (fskSetChannel _) (by simp), hc]

theorem Move.txq_count (h : Move s t) (hs : s.txq.count.toNat ≤ 64) : t.txq.count.toNat ≤ 64 := by
  cases h with
  | txqPut b hb =>
    have : (s.txq.count + 1#7).toNat ≤ 64 := by bv_omega
    exact this
  | txqTake hpos =>
    have : (s.txq.count - 1#7).toNat ≤ 64 := by bv_omega
    exact this
  | select id hid => simp [fskSelect_txq_count]
  | _ => simpa using hs

/-! ### The menu buffers and the cursor -/

theorem menuOctets_length (items : List Byte) : (menuOctets items).length ≤ 16 := List.length_take_le 16 _

theorem Move.rxlen (h : Move s t) (hs : s.v8.rxlen.toNat ≤ 16) : t.v8.rxlen.toNat ≤ 16 := by
  cases h with
  | receiver rxlen ck ckv sync zrun hr =>
    rcases hr with rfl | rfl
    · simp
    · exact hs
  | storeByte b =>
    rw [v8StoreByte_rxlen]
    split
    · bv_omega
    · exact hs
  | _ => simpa [v8LoadMenu_v8, v8NextBit_v8] using hs

theorem Move.outlen (h : Move s t) (hs : s.v8.outlen.toNat ≤ 16) : t.v8.outlen.toNat ≤ 16 := by
  cases h with
  | session => simp
  | loadMenu items =>
    have := menuOctets_length items
    rw [v8LoadMenu_v8]
    simp only [BitVec.toNat_ofNat]
    omega
  | _ => simpa [v8NextBit_v8] using hs

/-- The cursor stands inside the outgoing sequence (`spec/10_state.md` R46). -/
def cursorOk (v : V8Regs) : Prop := v.cursor.toNat < 20 + 10 * v.outlen.toNat

theorem Move.cursorOk (h : Move s t) (hs : cursorOk s.v8) : cursorOk t.v8 := by
  cases h with
  | session => simp [Proofs.cursorOk]
  | loadMenu items =>
    rw [v8LoadMenu_v8]
    simp [Proofs.cursorOk]
  | nextBit =>
    have hpos : 0 < seqLen s := by unfold seqLen; omega
    have hlt := Nat.mod_lt (s.v8.cursor.toNat + 1) hpos
    rw [v8NextBit_v8]
    simp only [Proofs.cursorOk, BitVec.toNat_ofNat]
    exact (Nat.mod_le _ _).trans_lt hlt
  | _ => simpa [Proofs.cursorOk] using hs

/-! ### Events -/

theorem phaseTrace_append (p : Phase) (es fs : List Event) :
    phaseTrace p (es ++ fs) = (phaseTrace p es).bind (fun q => phaseTrace q fs) := by
  induction es generalizing p with
  | nil => rfl
  | cons e es ih =>
    cases e with
    | v8State old new =>
      simp only [List.cons_append, phaseTrace]
      split
      · exact ih new
      · rfl
    | _ => exact ih p

/-- The events so far lead from phase `p` to the phase reached. -/
def traced (p : Phase) (s : State) : Prop := phaseTrace p s.resp.events = some s.v8.phase

theorem Move.traced {p : Phase} (h : Move s t) (hs : traced p s) : traced p t := by
  unfold Proofs.traced at hs ⊢
  cases h with
  | event e he =>
    simp only [emit_resp, emit_v8, phaseTrace_append, hs, Option.bind_some]
    cases e with
    | v8State old new => cases he
    | _ => rfl
  | phase q hne hrow hstart =>
    simp [phaseTrace_append, hs, phaseTrace, hne, hrow]
  | _ => simpa [v8LoadMenu_v8, v8NextBit_v8] using hs

end Sys2Proof.Proofs
end

section
/-! # The invariants between operations -/

namespace Sys2Proof.Proofs

open Sys2Proof.Machine Sys2Proof.Laws

variable {s t : State}

/-! ### The rate -/

theorem kept_rateOk : Kept State.rateOk where
  ports _ _ _ h := h
  reset hz h := Nat.one_le_iff_ne_zero.mpr (fun h0 => h (BitVec.eq_of_toNat_eq h0))
  onHook _ h := h
  order _ _ _ h := h
  addCap s i u hu h := by
    obtain ⟨-, rfl⟩ := (txCapAdd_eq_some s i u).mp hu
    exact h
  move s t hm h := by
    rw [State.rateOk, hm.srate]
    exact h

/-! ### Tone transmitter and classifier -/

theorem toneInv_iff (s : State) : s.toneInv ↔ s.tone.spent = false := by
  simp [State.toneInv, ToneTx.spent]

theorem kept_toneInv : Kept State.toneInv := by
  refine Kept.congr ?_ (fun s => (toneInv_iff s).symm)
  refine Kept.part (g := State.tone) (P := fun r => r.spent = false) (fun _ _ _ _ _ => rfl) (fun _ => rfl) (fun _ => rfl) ?_
  intro s t hm h
  rcases hm.tone_or with ht | ht
  · exact ht ▸ h
  · exact ht

/-- A property of the classifier's registers that holds after reset and that `DetStep` keeps. -/
theorem Kept.detector {P : Detector → Prop} (hreset : P Detector.reset) (hstep : ∀ d d', DetStep d d' → P d → P d') :
    Kept (fun s => P s.det) :=
  Kept.part (g := State.det) (fun _ _ _ _ _ => rfl) (fun _ => hreset) (fun _ => hreset) (fun _ _ hm h => hstep _ _ hm.det h)

theorem kept_detInv : Kept State.detInv :=
  Kept.detector (P := fun d => d.fill.toNat < 256) (by decide) (fun _ _ h => h.fill)

/-! ### Scheme registers -/

/-- The relation between the four scheme registers (`spec/10_state.md` R39). -/
def schemeFits (r : FskRegs) : Prop :=
  (r.scheme = 0#8 ↔ r.nch = 0#2) ∧
    (0 < r.nch.toNat → r.txch.toNat < r.nch.toNat ∧ r.rxch.toNat < r.nch.toNat)

/-- The catalog's schemes have at most two channels and default channels among them (`spec/30_encoding.md` R106). -/
theorem schemeDesc_fits (id : Nat) :
    (schemeDesc id).nch ≤ 2 ∧
      (0 < (schemeDesc id).nch →
        (schemeDesc id).defTx.toNat < (schemeDesc id).nch ∧ (schemeDesc id).defRx.toNat < (schemeDesc id).nch) := by
  have hcat : ∀ d ∈ schemeCatalog, d.nch ≤ 2 ∧ (0 < d.nch → d.defTx.toNat < d.nch ∧ d.defRx.toNat < d.nch) := by decide
  unfold schemeDesc
  rw [params_schemes, List.getD_eq_getElem?_getD]
  cases h : schemeCatalog[id]? with
  | none => decide
  | some d => exact hcat d (List.mem_of_getElem? h)

theorem nch_of_usable {srate : Word} {id : Nat} (h : schemeUsable srate id = true) : 0 < (schemeDesc id).nch := by
  simp only [schemeUsable, schemeExists, Bool.and_eq_true, decide_eq_true_eq] at h
  omega

/-- A scheme that can be selected exists. -/
theorem nch_of_selectable {id : Byte} (h : selectable s id) (hid : id ≠ 0#8) : 0 < (schemeDesc id.toNat).nch := by
  rcases h with h | h | ⟨rfl, -⟩
  · exact absurd h hid
  · exact nch_of_usable h
  · decide

theorem schemeFits_select {id : Byte} (h : selectable s id) : schemeFits (fskSelect id s).fsk := by
  rw [fskSelect_fsk]
  split
  · simp [schemeFits, FskRegs.reset]
  · rename_i hid
    have hpos := nch_of_selectable h hid
    obtain ⟨hle, hdef⟩ := schemeDesc_fits id.toNat
    have hnat : (BitVec.ofNat 2 (schemeDesc id.toNat).nch).toNat = (schemeDesc id.toNat).nch := by
      rw [BitVec.toNat_ofNat, Nat.mod_eq_of_lt (by omega)]
    have hne : BitVec.ofNat 2 (schemeDesc id.toNat).nch ≠ 0#2 := fun h0 => by
      rw [h0] at hnat
      simp only [BitVec.toNat_ofNat] at hnat
      omega
    refine ⟨iff_of_false hid hne, fun _ => ?_⟩
    rw [hnat]
    exact hdef hpos

theorem Move.schemeFits (h : Move s t) (hs : schemeFits s.fsk) : schemeFits t.fsk := by
  cases h with
  | select id hid => exact schemeFits_select hid
  | txch c hc => exact ⟨hs.1, fun hpos => ⟨hc, (hs.2 hpos).2⟩⟩
  | rxch c hc => exact ⟨hs.1, fun hpos => ⟨(hs.2 hpos).1, hc⟩⟩
  | txen e => exact hs
  | _ => simpa using hs

theorem kept_schemeInv : Kept State.schemeInv :=
  have hreset : Proofs.schemeFits FskRegs.reset := by unfold Proofs.schemeFits; decide
  Kept.part (g := State.fsk) (P := Proofs.schemeFits) (fun _ _ _ _ _ => rfl) (fun _ => hreset) (fun _ => hreset)
    (fun _ _ hm h => hm.schemeFits h)

theorem Move.nch_le (h : Move s t) (hs : s.fsk.nch.toNat ≤ 2) : t.fsk.nch.toNat ≤ 2 := by
  cases h with
  | select id hid =>
    rw [fskSelect_fsk]
    split
    · simp [FskRegs.reset]
    · have := (schemeDesc_fits id.toNat).1
      simp only [BitVec.toNat_ofNat]
      omega
  | _ => simpa using hs

theorem kept_nch : Kept (fun s => s.fsk.nch.toNat ≤ 2) :=
  have hreset : FskRegs.reset.nch.toNat ≤ 2 := by decide
  Kept.part (g := State.fsk) (P := fun r => r.nch.toNat ≤ 2) (fun _ _ _ _ _ => rfl) (fun _ => hreset) (fun _ => hreset)
    (fun _ _ hm h => hm.nch_le h)

/-! ### Frame builders -/

/-- The range of `FRM_BN` and the builder invariant of one codec (`spec/10_state.md` R29, R30). -/
def builderOk (c : Codec) : Prop :=
  c.bn.toNat ≤ 10 ∧ (c.bn.toNat = 10 → c.bframe.getLsbD 9 = false ∧ c.bframe.getLsbD 0 = true)

/-- One data bit of a frame stays below bit 9. -/
theorem dataBit_shift_nine (x : Bool) (i : Nat) (h : i < 8) :
    ((if x then 1#10 else 0#10) <<< (8 - i)).getLsbD 9 = false := by
  have : 9 - (8 - i) ≠ 0 := by omega
  cases x <;> simp [this]

/-- A frame starts with start bit 0 in bit 9 and ends with stop bit 1 in bit 0 (`spec/41_frame_codec.md` R161). -/
theorem frameBits_ends (b : Byte) (o : BitOrder) :
    (frameBits b o).getLsbD 9 = false ∧ (frameBits b o).getLsbD 0 = true := by
  unfold frameBits
  refine ⟨?_, by simp⟩
  rw [BitVec.getLsbD_or, Bool.or_eq_false_iff]
  refine ⟨List.foldlRecOn (motive := fun v : BitVec 10 => v.getLsbD 9 = false) _ _ (by decide) ?_, by decide⟩
  intro v hv i hi
  rw [BitVec.getLsbD_or, hv, dataBit_shift_nine _ i (List.mem_range.mp hi), Bool.or_false]

theorem bn_le_of_codecStep {c c' : Codec} (h : CodecStep c c') (hc : c.bn.toNat ≤ 10) : c'.bn.toNat ≤ 10 := by
  cases h with
  | pop =>
    unfold Codec.pop
    split
    · exact hc
    · rename_i h0
      have hpos : c.bn.toNat ≠ 0 := fun h => h0 (BitVec.eq_of_toNat_eq h)
      have : (c.bn - 1#4).toNat ≤ 10 := by bv_omega
      exact this
  | _ => simp [hc]

theorem builderOk_of_codecStep {c c' : Codec} (h : CodecStep c c') (hc : builderOk c) : builderOk c' := by
  refine ⟨bn_le_of_codecStep h hc.1, ?_⟩
  cases h with
  | same => exact hc.2
  | load b h => exact fun _ => frameBits_ends b c.order
  | pop =>
    have hle := hc.1
    unfold Codec.pop
    split
    · exact hc.2
    · rename_i h0
      intro h10
      have : (c.bn - 1#4).toNat ≠ 10 := by bv_omega
      exact absurd h10 this
  | push b => simpa using hc.2
  | clear => simp

theorem builderOk_reset : builderOk Codec.reset := by unfold builderOk; decide

theorem kept_builderInv : Kept State.builderInv :=
  (Kept.codecs builderOk_reset (fun _ _ h => h) (fun _ _ => builderOk_of_codecStep)).congr
    (fun _ => forall_vget builderOk_reset)

/-! ### Capability sets and the cursor -/

/-- A capability set holds at most sixteen items. -/
def fits16 (l : List Byte) : Prop := l.length ≤ 16

/-- A capability set is a set of at most sixteen valid items (`spec/10_state.md` R46). -/
def itemsOk (l : List Byte) : Prop := fits16 l ∧ l.Nodup ∧ ∀ i ∈ l, itemValid i = true

theorem fits16_of_itemsStep {l l' : List Byte} (h : ItemsStep l l') (hl : fits16 l) : fits16 l' := by
  unfold fits16 at hl ⊢
  cases h with
  | same => exact hl
  | clear => simp
  | add i hacc =>
    have := ((capAccepts_iff l i).mp hacc).2.2
    rw [List.length_append, List.length_singleton]
    omega

theorem itemsOk_of_itemsStep {l l' : List Byte} (h : ItemsStep l l') (hl : itemsOk l) : itemsOk l' := by
  obtain ⟨hlen, hnodup, hvalid⟩ := hl
  refine ⟨fits16_of_itemsStep h hlen, ?_⟩
  cases h with
  | same => exact ⟨hnodup, hvalid⟩
  | clear => simp
  | add i hacc =>
    obtain ⟨hi, hnew, -⟩ := (capAccepts_iff l i).mp hacc
    refine ⟨hnodup.append (List.nodup_singleton i) (List.disjoint_singleton.mpr hnew), fun j hj => ?_⟩
    rcases List.mem_append.mp hj with hj | hj
    · exact hvalid j hj
    · rw [List.mem_singleton.mp hj]
      exact hi

/-- A property of both sets that holds of the empty set, bounds the size and is kept by every `ItemsStep`. -/
theorem Kept.sets {P : List Byte → Prop} (hnil : P []) (hlen : ∀ l, P l → fits16 l)
    (hstep : ∀ l l', ItemsStep l l' → P l → P l') : Kept (fun s => P (txItems s) ∧ P (rxItems s)) := by
  have htx : ∀ s : State, P (txItems s) → s.v8.ntx.toNat ≤ 16 := fun s h => by simpa [fits16, txItems] using hlen _ h
  have hrx : ∀ s : State, P (rxItems s) → s.v8.nrx.toNat ≤ 16 := fun s h => by simpa [fits16, rxItems] using hlen _ h
  exact
    { ports := fun _ _ _ h => h
      reset := fun _ _ => ⟨hnil, hnil⟩
      onHook := fun _ h => ⟨h.1, hnil⟩
      order := fun _ _ _ h => h
      addCap := fun s i u hu h => by
        obtain ⟨hstx, heq⟩ := txCapAdd_items (htx s h.1) hu
        exact ⟨hstep _ _ hstx h.1, heq ▸ h.2⟩
      move := fun s t hm h => ⟨hm.txItems ▸ h.1, hstep _ _ (hm.rxItems (hrx s h.2)) h.2⟩ }

theorem kept_itemsOk : Kept (fun s => itemsOk (txItems s) ∧ itemsOk (rxItems s)) :=
  Kept.sets (by simp [itemsOk, fits16]) (fun _ h => h.1) (fun _ _ => itemsOk_of_itemsStep)

theorem kept_setCounts : Kept State.setCountsOk :=
  (Kept.sets (P := fits16) (by simp [fits16]) (fun _ h => h) (fun _ _ => fits16_of_itemsStep)).congr
    (fun s => by simp [State.setCountsOk, fits16, txItems, rxItems])

/-- A property of the V.8 registers that does not look at the transmit set: what is left to show is the reset value and the
moves. -/
theorem Kept.v8Regs {P : V8Regs → Prop} (htx : ∀ v n m, P v → P { v with ntx := n, txcaps := m }) (hreset : P V8Regs.reset)
    (hmove : ∀ s t, Move s t → P s.v8 → P t.v8) : Kept (fun s => P s.v8) where
  ports _ _ _ h := h
  reset _ _ := hreset
  onHook _ _ := htx _ _ _ hreset
  order _ _ _ h := h
  addCap s i u hu h := by
    obtain ⟨-, rfl⟩ := (txCapAdd_eq_some s i u).mp hu
    exact htx _ _ _ h
  move := hmove

theorem kept_cursorOk : Kept (fun s => cursorOk s.v8) :=
  Kept.v8Regs (fun _ _ _ h => h) (by unfold cursorOk; decide) (fun _ _ hm h => hm.cursorOk h)

theorem v8Inv_iff (s : State) :
    s.v8Inv ↔ (itemsOk (txItems s) ∧ itemsOk (rxItems s)) ∧ cursorOk s.v8 := by
  have htx : fits16 (txItems s) ↔ s.v8.ntx.toNat ≤ 16 := by simp [fits16, txItems]
  have hrx : fits16 (rxItems s) ↔ s.v8.nrx.toNat ≤ 16 := by simp [fits16, rxItems]
  simp only [State.v8Inv, State.setCountsOk, itemsOk, cursorOk, htx, hrx]
  tauto

theorem kept_v8Inv : Kept State.v8Inv := (kept_itemsOk.and kept_cursorOk).congr (fun s => (v8Inv_iff s).symm)

/-! ### Ranges -/

theorem sineQuarter_le (k : Nat) : sineQuarter k ≤ 16384 := by
  have hrows : ∀ row ∈ sineQuarterRows, ∀ v ∈ row, v ≤ 16384 := by decide
  unfold sineQuarter
  rw [List.getD_eq_getElem?_getD, List.getD_eq_getElem?_getD]
  cases hr : sineQuarterRows[k / 16]? with
  | none => simp
  | some row =>
    cases hv : row[k % 16]? with
    | none => simp [hv]
    | some v => simpa [hv] using hrows row (List.mem_of_getElem? hr) v (List.mem_of_getElem? hv)

theorem sineHalf_bounds (k : Nat) : 0 ≤ sineHalf k ∧ sineHalf k ≤ 16384 := by
  have := sineQuarter_le k
  have := sineQuarter_le (512 - k)
  unfold sineHalf
  split <;> omega

theorem sineRom_bounds (k : Nat) : -16384 ≤ sineRom k ∧ sineRom k ≤ 16384 := by
  have := sineHalf_bounds k
  have := sineHalf_bounds (k - 512)
  unfold sineRom
  split <;> omega

/-- A coefficient is twice a cosine (`spec/40_dsp_primitives.md` R135). -/
theorem goertzelCoeff_bounds (f fs n : Nat) : -32768 ≤ goertzelCoeff f fs n ∧ goertzelCoeff f fs n ≤ 32768 := by
  have hc : ∀ ph : Word, -16384 ≤ cosine ph ∧ cosine ph ≤ 16384 := fun ph => sineRom_bounds _
  have := hc (BitVec.ofNat 32 (((2 * n * f + 100 * fs) / (200 * fs) * 2 ^ 32) / n))
  unfold goertzelCoeff
  dsimp only
  omega

theorem toInt_ofInt_of_bounds {v : Int} (h : -32768 ≤ v ∧ v ≤ 32768) : (BitVec.ofInt 32 v).toInt = v := by
  rw [BitVec.toInt_ofInt]
  exact Int.bmod_eq_of_le (by omega) (by omega)

/-- The range of a Goertzel coefficient (`spec/10_state.md` R24). -/
def coeffOk (c : BitVec 32) : Prop := -32768 ≤ c.toInt ∧ c.toInt ≤ 32768

theorem kept_coeffs : Kept (fun s => ∀ u : Nat, coeffOk (s.gzAt u).coeff) := by
  have hreset : ∀ u : Nat, coeffOk (State.reset.gzAt u).coeff :=
    (forall_vget (P := fun g : Goertzel => coeffOk g.coeff) (by unfold coeffOk; decide)).mpr
      (fun u => by simp [State.reset, Goertzel.reset, coeffOk])
  refine Kept.part (g := coeffs) (P := fun c => ∀ u, coeffOk (c u)) (fun _ _ _ _ _ => rfl) (fun _ => hreset)
    (fun _ => hreset) (fun s t hm h u => ?_)
  rcases hm.coeff u with hu | ⟨f, n, hu⟩
  · rw [hu]; exact h u
  · rw [hu, coeffOk, toInt_ofInt_of_bounds (goertzelCoeff_bounds _ _ _)]
    exact goertzelCoeff_bounds _ _ _

theorem kept_bn : Kept (fun s => ∀ k : Nat, (s.codecAt k).bn.toNat ≤ 10) :=
  Kept.codecs (P := fun c => c.bn.toNat ≤ 10) (by decide) (fun _ _ h => h) (fun _ _ => bn_le_of_codecStep)

/-- The ranges of the classifier's counts (`spec/10_state.md` R36, R38). -/
def detRange (d : Detector) : Prop := d.n.toNat ≤ 16 ∧ d.na.toNat ≤ 8 ∧ d.nb.toNat ≤ 8 ∧ d.fill.toNat < 256

theorem kept_detRange : Kept (fun s => detRange s.det) :=
  Kept.detector (P := detRange) (by unfold detRange; decide)
    (fun _ _ hs h => ⟨hs.n h.1, hs.na h.2.1, hs.nb h.2.2.1, hs.fill h.2.2.2⟩)

theorem kept_txq_count : Kept (fun s => s.txq.count.toNat ≤ 64) :=
  have hreset : TxQueue.reset.count.toNat ≤ 64 := by decide
  Kept.part (g := State.txq) (P := fun q => q.count.toNat ≤ 64) (fun _ _ _ _ _ => rfl) (fun _ => hreset) (fun _ => hreset)
    (fun _ _ hm h => hm.txq_count h)

/-- The ranges of the menu lengths (`spec/10_state.md` R45). -/
def menuLengths (v : V8Regs) : Prop := v.rxlen.toNat ≤ 16 ∧ v.outlen.toNat ≤ 16

theorem kept_menuLengths : Kept (fun s => menuLengths s.v8) :=
  Kept.v8Regs (fun _ _ _ h => h) (by unfold menuLengths; decide) (fun _ _ hm h => ⟨hm.rxlen h.1, hm.outlen h.2⟩)

theorem startOk_of_idle (h : s.v8.phase = .idle) : s.startOk := by
  rintro (hp | hp) <;> rw [h] at hp <;> cases hp

theorem lengthsOk_reset : lengthsOk State.reset :=
  ⟨(forall_vget (P := fun x : IqTable => x.len.toNat ≤ 512) (by decide)).mpr (fun k => by simp [State.reset, IqTable.reset]),
    (forall_vget (P := fun x : FskChannel => x.symlen.toNat ≤ 512) (by decide)).mpr
      (fun c => by simp [State.reset, FskChannel.reset])⟩

/-- Table and symbol lengths, with the condition under which the V.8 engine selects V21 (`spec/44_v8_engine.md` R265). -/
theorem kept_lengths : Kept (fun s => lengthsOk s ∧ s.startOk) where
  ports _ _ _ h := h
  reset _ _ := ⟨lengthsOk_reset, startOk_of_idle rfl⟩
  onHook _ _ := ⟨lengthsOk_reset, startOk_of_idle rfl⟩
  order _ _ _ h := h
  addCap s i u hu h := by
    obtain ⟨-, rfl⟩ := (txCapAdd_eq_some s i u).mp hu
    exact h
  move _ _ hm h := ⟨hm.lengthsOk h.2 h.1, hm.startOk h.2⟩

theorem rangeInv_iff (s : State) :
    s.rangeInv ↔ (∀ u : Nat, coeffOk (s.gzAt u).coeff) ∧ (∀ k : Nat, (s.codecAt k).bn.toNat ≤ 10) ∧ detRange s.det ∧
      s.fsk.nch.toNat ≤ 2 ∧ s.txq.count.toNat ≤ 64 ∧ s.setCountsOk ∧ menuLengths s.v8 ∧ lengthsOk s ∧ s.startOk := by
  have hgz := forall_vget (P := fun g : Goertzel => coeffOk g.coeff) (v := s.gz) (d := Goertzel.reset)
    (by unfold coeffOk; decide)
  have hbn := forall_vget (P := fun c : Codec => c.bn.toNat ≤ 10) (v := s.codec) (d := Codec.reset) (by decide)
  have hiq := forall_vget (P := fun x : IqTable => x.len.toNat ≤ 512) (v := s.iq) (d := IqTable.reset) (by decide)
  have hch := forall_vget (P := fun x : FskChannel => x.symlen.toNat ≤ 512) (v := s.chan) (d := FskChannel.reset)
    (by decide)
  simp only [State.rangeInv, State.setCountsOk, detRange, menuLengths, lengthsOk, State.gzAt, State.codecAt, State.iqAt,
    State.chanAt, hbn, hiq, hch, coeffOk]
  tauto

theorem kept_rangeInv : Kept State.rangeInv :=
  (kept_coeffs.and (kept_bn.and (kept_detRange.and (kept_nch.and (kept_txq_count.and (kept_setCounts.and
    (kept_menuLengths.and kept_lengths))))))).congr (fun s => (rangeInv_iff s).symm)

/-! ### Phase changes -/

/-- An operation that does not re-initialise starts with no events and in the phase of the state. -/
theorem Entry.traced {i : Instr} {u : State} (h : Entry i s u) (hi : reinitialises i = false) : traced s.v8.phase u := by
  cases h with
  | plain i s h => rfl
  | order k o s => rfl
  | addCap item s u h =>
    obtain ⟨-, rfl⟩ := (txCapAdd_eq_some _ _ _).mp h
    rfl
  | _ => cases hi

/-- A re-initialisation starts with no events and in phase `IDLE`. -/
theorem Entry.traced_idle {i : Instr} {u : State} (h : Entry i s u) (hi : reinitialises i = true) : Proofs.traced .idle u := by
  cases h with
  | reset | setRate | setOnHook | restart => rfl
  | plain i s h => exact absurd (h.symm.trans hi) (by decide)
  | order | addCap => cases hi

/-- Settling keeps the V.8 registers outside phase `TX_ANS`. -/
theorem Settled.v8 {r : State} (h : Settled s r) (hp : s.v8.phase ≠ .txAns) : r.v8 = s.v8 := by
  cases h with
  | loaded r h => rfl
  | ended r id h => rw [v8ToneDone_outside _ (by exact hp)]; rfl

theorem detCfg_v8 {ids : List Nat} : ((detCfg ids s).getD s).v8 = s.v8 := by
  cases h : detCfg ids s with
  | none => rfl
  | some u =>
    obtain ⟨-, -, rfl⟩ := (detCfg_eq_some s ids u).mp h
    simp

/-- Going off hook keeps the V.8 registers outside phase `TX_ANS`. -/
theorem goOffHook_v8 (tone : Byte) (hp : s.v8.phase ≠ .txAns) : (goOffHook tone s).v8 = s.v8 := by
  unfold goOffHook
  dsimp only
  rw [detCfg_v8]
  exact (settled_toneSettle _).v8 hp

/-- A re-initialisation that succeeds ends in phase `IDLE`. -/
theorem reinit_phase {i : Instr} (hi : reinitialises i = true) (h : exec i s = .next t)
    (hok : t.resp.status = some .ok) : t.v8.phase = .idle := by
  cases i with
  | reset =>
    cases h
    rfl
  | setOnHook =>
    cases h
    rfl
  | setRate hz =>
    replace h : execSetRate hz s = .next t := h
    unfold execSetRate answerFail answerOk at h
    split at h
    · cases h
      cases hok
    · cases h
      rfl
  | restart tone =>
    replace h : execRestart tone s = .next t := h
    unfold execRestart answerFail answerOk at h
    split at h
    · cases h
      rw [ok_v8, goOffHook_v8 tone (by simp)]
      rfl
    · cases h
      cases hok
  | _ => cases hi

/-! ### Registers that few operations write -/

theorem Move.order (h : Move s t) (k : Nat) : (t.codecAt k).order = (s.codecAt k).order := codecStep_order (h.codecAt k)

theorem Entry.srate {i : Instr} {u : State} (h : Entry i s u) (hr : i ≠ .reset) (hz : ∀ hz, i ≠ .setRate hz) :
    u.srate = s.srate := by
  cases h with
  | reset => exact absurd rfl hr
  | setRate r => exact absurd rfl (hz r)
  | addCap item s u h =>
    obtain ⟨-, rfl⟩ := (txCapAdd_eq_some _ _ _).mp h
    rfl
  | _ => rfl

theorem Entry.codecOrder {i : Instr} {u : State} (h : Entry i s u) (hr : i ≠ .reset) (hz : ∀ hz, i ≠ .setRate hz)
    (k : Fin 3) (hk : ∀ o, i ≠ .frmCfg k o) : (u.codecAt k.val).order = (s.codecAt k.val).order := by
  cases h with
  | reset => exact absurd rfl hr
  | setRate r => exact absurd rfl (hz r)
  | plain => rfl
  | setOnHook | restart =>
    rw [goOnHook_codecAt]
    rfl
  | order j o =>
    have hj : ¬ (j.val = k.val ∧ j.val < 3) := fun hj => hk o (by rw [Fin.ext hj.1])
    rw [codecAt_setCodec, if_neg hj]
    rfl
  | addCap item s u h =>
    obtain ⟨-, rfl⟩ := (txCapAdd_eq_some _ _ _).mp h
    rfl

theorem Entry.txcaps {i : Instr} {u : State} (h : Entry i s u) (hr : i ≠ .reset) (hz : ∀ hz, i ≠ .setRate hz)
    (hc : ∀ item, i ≠ .v8AddCap item) : u.v8.ntx = s.v8.ntx ∧ u.v8.txcaps = s.v8.txcaps := by
  cases h with
  | reset => exact absurd rfl hr
  | setRate r => exact absurd rfl (hz r)
  | addCap item => exact absurd rfl (hc item)
  | _ => exact ⟨rfl, rfl⟩

theorem ran_keptRegisters {i : Instr} (h : Ran i s t) (hr : i ≠ .reset) (hz : ∀ hz, i ≠ .setRate hz) :
    t.srate = s.srate ∧
    (∀ k : Fin 3, (∀ o, i ≠ .frmCfg k o) → (t.codecAt k.val).order = (s.codecAt k.val).order) ∧
    ((∀ item, i ≠ .v8AddCap item) → t.v8.ntx = s.v8.ntx ∧ t.v8.txcaps = s.v8.txcaps) := by
  cases h with
  | failed => exact ⟨rfl, fun _ _ => rfl, fun _ => ⟨rfl, rfl⟩⟩
  | illegal => exact ⟨rfl, fun _ _ => rfl, fun _ => ⟨rfl, rfl⟩⟩
  | done r y he hm =>
    refine ⟨?_, fun k hk => ?_, fun hc => ?_⟩
    · exact (hm.keeps State.srate (fun _ _ => Move.srate)).trans (he.srate hr hz)
    · exact (hm.keeps (fun u => (u.codecAt k.val).order) (fun _ _ hs => hs.order k.val)).trans
        (he.codecOrder hr hz k hk)
    · obtain ⟨hn, hm'⟩ := he.txcaps hr hz hc
      exact ⟨(hm.keeps (fun u => u.v8.ntx) (fun _ _ hs => hs.txcaps.1)).trans hn,
        (hm.keeps (fun u => u.v8.txcaps) (fun _ _ hs => hs.txcaps.2)).trans hm'⟩

end Sys2Proof.Proofs

/-! # The obligations -/

namespace Sys2Proof.Proofs

open Sys2Proof.Machine Sys2Proof.Laws

/-- Settles O9: the events of an operation are traced along its moves, each phase change being a row of the table. -/
theorem phaseTransitions : Obligations.PhaseTransitions := by
  unfold Obligations.PhaseTransitions
  constructor
  · intro i s t hi h
    cases exec_ran i s t h with
    | failed => rfl
    | illegal => rfl
    | done r y he hm => exact hm.inv (fun _ _ => Move.traced) (he.traced hi)
  · intro i s t hi h hok
    have hidle := reinit_phase hi h hok
    refine ⟨hidle, ?_⟩
    cases exec_ran i s t h with
    | failed => cases hok
    | illegal => cases hok
    | done r y he hm => exact (hm.inv (fun _ _ => Move.traced) (he.traced_idle hi)).trans (congrArg some hidle)

/-- Settles O12: a move leaves a settled transmitter and a block that is not full. -/
theorem toneDetectorInvariant : Obligations.ToneDetectorInvariant := by
  unfold Obligations.ToneDetectorInvariant
  exact ⟨fun _ _ => kept_toneInv.step, fun _ _ => kept_detInv.step⟩

/-- Settles O14: a move keeps, empties or extends a capability set by an accepted item, and keeps the cursor inside. -/
theorem capabilityInvariant : Obligations.CapabilityInvariant := by
  unfold Obligations.CapabilityInvariant
  exact fun _ _ => kept_v8Inv.step

/-- Settles O17, one range at a time. -/
theorem rangeInvariant : Obligations.RangeInvariant := by
  unfold Obligations.RangeInvariant
  exact fun _ _ => kept_rangeInv.step

/-- Settles O13: the moves that write the scheme registers are selections and checked channel writes. -/
theorem schemeInvariant : Obligations.SchemeInvariant := by
  unfold Obligations.SchemeInvariant
  exact fun _ _ => kept_schemeInv.step

/-- Settles O16, codec by codec. -/
theorem builderInvariant : Obligations.BuilderInvariant := by
  unfold Obligations.BuilderInvariant
  exact fun _ _ => kept_builderInv.step

/-- Settles O19: no move writes these registers, and an operation starts from them but for the named ones. -/
theorem keptRegisters : Obligations.KeptRegisters := by
  unfold Obligations.KeptRegisters
  refine ⟨fun _ _ => kept_rateOk.step, fun i s t h hr hz => ?_⟩
  obtain ⟨hrate, horder, hcaps⟩ := ran_keptRegisters (exec_ran i s t h) hr hz
  refine ⟨hrate, fun k hk => ?_, hcaps⟩
  rw [← codecAt_fin t k, ← codecAt_fin s k]
  exact horder k hk

/-- Settles O8: each register array after reset is a constant array, every memory is empty. -/
theorem resetState : Obligations.ResetState := by
  unfold Obligations.ResetState
  refine ⟨rfl, rfl, rfl, rfl, fun u => ?_, fun k => ?_, fun k => ?_, rfl, rfl, rfl, rfl, fun j => ?_, fun j => ?_,
    rfl, rfl, rfl, rfl, fun c => ?_, fun _ => rfl, rfl, rfl, rfl, rfl, rfl, rfl, rfl, rfl, rfl, rfl, rfl, rfl, rfl,
    fun _ => ⟨rfl, rfl, rfl, rfl⟩⟩
  · simp [State.reset, Goertzel.reset]
  · simp [State.reset, IqTable.reset]
  · simp [State.reset, Codec.reset]
  · simp [State.reset, Detector.reset]
  · simp [State.reset, Detector.reset]
  · simp [State.reset, FskChannel.reset]

/-- Settles O18: each invariant holds after reset, as part of being one. -/
theorem resetInvariants : Obligations.ResetInvariants := by
  unfold Obligations.ResetInvariants
  have htimer : State.reset.timerInv := by unfold State.timerInv; decide
  exact ⟨kept_rateOk.reset_holds, ⟨reset_memoryWf, kept_setCounts.reset_holds, startOk_of_idle rfl⟩,
    kept_toneInv.reset_holds, kept_detInv.reset_holds, kept_schemeInv.reset_holds, kept_v8Inv.reset_holds, htimer,
    kept_builderInv.reset_holds, kept_rangeInv.reset_holds⟩

end Sys2Proof.Proofs
end

section
/-! # Memories -/

namespace Sys2Proof.Proofs

open Sys2Proof.Machine Sys2Proof.Laws

variable {s t : State}

/-! ### Tables and rings -/

/-- Both components of a table are in canonical form. -/
def tableWf (x : IqTable) : Prop := ramWf 512 x.i = true ∧ ramWf 512 x.q = true

/-- Every table and every ring is in canonical form. -/
def ramsWf (s : State) : Prop :=
  (∀ k : Nat, tableWf (s.iqAt k)) ∧ ∀ c : Nat, ramWf 512 (s.chanAt c).ring = true

theorem ramsWf_congr (hs : ramsWf s) (hi : t.iq = s.iq) (hc : t.chan = s.chan) : ramsWf t := by
  unfold ramsWf State.iqAt State.chanAt
  rw [hi, hc]
  exact hs

theorem ramsWf_setIq (hs : ramsWf s) (k : Nat) {x : IqTable} (hx : tableWf x) : ramsWf (s.setIq k x) := by
  refine ⟨fun j => ?_, hs.2⟩
  rw [iqAt_setIq]
  split
  · exact hx
  · exact hs.1 j

theorem ramsWf_setChan (hs : ramsWf s) (c : Nat) {x : FskChannel} (hx : ramWf 512 x.ring = true) :
    ramsWf (s.setChan c x) := by
  refine ⟨hs.1, fun j => ?_⟩
  rw [chanAt_setChan]
  split
  · exact hx
  · exact hs.2 j

theorem tableWf_build {x : IqTable} (hx : tableWf x) (f fs : Nat) {len : Nat} (h : len ≤ 512) :
    tableWf (x.build f fs len) :=
  ⟨ramWf_ramFill hx.1 (by simpa using h), ramWf_ramFill hx.2 (by simpa using h)⟩

theorem ramsWf_buildIq (hs : ramsWf s) (k f : Nat) {len : Nat} (h : len ≤ 512) : ramsWf (buildIq k f len s) :=
  ramsWf_setIq hs k (tableWf_build (hs.1 k) f _ h)

/-- The write index has nine bits, so a stored sample stays inside its ring. -/
theorem ring_store_wf {x : FskChannel} (h : ramWf 512 x.ring = true) (v : Word) : ramWf 512 (x.store v).ring = true :=
  ramWf_ramWrite h x.demWidx.isLt

theorem forall_table_iff {v : Vector IqTable Config.iqTables} :
    (∀ k : Nat, tableWf (vget v IqTable.reset k)) ↔ ∀ k : Fin Config.iqTables, tableWf v[k] :=
  forall_vget (by unfold tableWf; decide)

theorem forall_ring_iff {v : Vector FskChannel Config.fskChannels} :
    (∀ c : Nat, ramWf 512 (vget v FskChannel.reset c).ring = true) ↔
      ∀ c : Fin Config.fskChannels, ramWf 512 v[c].ring = true :=
  forall_vget (P := fun x : FskChannel => ramWf 512 x.ring = true) (by decide)

theorem ramsWf_fskClear (hs : ramsWf s) : ramsWf (fskClear s) := by
  have hchan : ramsWf { s with
      fsk := { FskRegs.reset with txen := s.fsk.txen }, chan := Vector.replicate _ FskChannel.reset } :=
    ⟨hs.1, forall_ring_iff.mpr (fun c => by simp [FskChannel.reset])⟩
  have hfold := foldl_inv ramsWf clearIqLen (fun u k hu => ramsWf_setIq hu k (hu.1 k)) (List.range Config.iqTables) _ hchan
  unfold fskClear
  exact ramsWf_congr hfold (by simp) (by simp)

theorem ramsWf_fskSetChannel (hs : ramsWf s) (d : SchemeDesc) {c : Nat} (h : symlen s.srate (d.chan c).baud ≤ 512) :
    ramsWf (fskSetChannel d s c) :=
  ramsWf_buildIq (ramsWf_buildIq (ramsWf_setChan hs c (by exact hs.2 c)) _ _ h) _ _ h

/-- A selection writes tables of a usable symbol length, which fit. -/
theorem ramsWf_fskSelect (hs : ramsWf s) {id : Byte} (h : id = 0#8 ∨ schemeUsable s.srate id.toNat = true) :
    ramsWf (fskSelect id s) := by
  have hclear := ramsWf_fskClear hs
  unfold fskSelect
  split
  · exact hclear
  · rename_i hid
    have hu := h.resolve_left hid
    have hfold : ((List.range (schemeDesc id.toNat).nch).foldl (fskSetChannel (schemeDesc id.toNat)) (fskClear s)).srate =
        s.srate ∧ ramsWf
          ((List.range (schemeDesc id.toNat).nch).foldl (fskSetChannel (schemeDesc id.toNat)) (fskClear s)) :=
      List.foldlRecOn (motive := fun u : State => u.srate = s.srate ∧ ramsWf u) _ _ ⟨by simp, hclear⟩
        (fun u hu' c hc => ⟨by simpa using hu'.1, ramsWf_fskSetChannel hu'.2 _
          (hu'.1 ▸ symlen_of_usable hu (List.mem_range.mp hc))⟩)
    exact ramsWf_congr hfold.2 rfl rfl

theorem Move.ramsWf (h : Move s t) (hstart : s.startOk) (hs : ramsWf s) : ramsWf t := by
  cases h with
  | buildIq k f len hlen => exact ramsWf_buildIq hs k f hlen
  | select id hid => exact ramsWf_fskSelect hs (usable_of_selectable hstart hid)
  | chan c x hlen hring => exact ramsWf_setChan hs c (hring ▸ hs.2 c)
  | ringStore c v => exact ramsWf_setChan hs c (ring_store_wf (hs.2 c) v)
  | _ => exact ramsWf_congr hs (by simp) (by simp)

theorem ramsWf_reset : ramsWf State.reset :=
  ⟨forall_table_iff.mpr (fun k => by simp [State.reset, IqTable.reset, tableWf]),
    forall_ring_iff.mpr (fun c => by simp [State.reset, FskChannel.reset])⟩

/-- Tables and rings, with the condition under which the V.8 engine selects V21 (`spec/44_v8_engine.md` R265). -/
theorem kept_ramsWf : Kept (fun s => ramsWf s ∧ s.startOk) where
  ports _ _ _ h := h
  reset _ _ := ⟨ramsWf_reset, startOk_of_idle rfl⟩
  onHook _ _ := ⟨ramsWf_reset, startOk_of_idle rfl⟩
  order _ _ _ h := h
  addCap s i u hu h := by
    obtain ⟨-, rfl⟩ := (txCapAdd_eq_some s i u).mp hu
    exact h
  move _ _ hm h := ⟨hm.ramsWf h.2 h.1, hm.startOk h.2⟩

/-! ### The byte queue -/

/-- A selection empties the queue and leaves its content as it is (`spec/43_fsk_engine.md` R223). -/
theorem fskSelect_txq_mem (s : State) (id : Byte) : (fskSelect id s).txq.mem = s.txq.mem := by
  have hc : (fskClear s).txq.mem = s.txq.mem := by
    unfold fskClear
    simp only [txqClear_txq, frmReset_keeps]
    rw [foldl_keeps State.txq clearIqLen (by simp)]
  unfold fskSelect
  split
  · exact hc
  · dsimp only
    rw [foldl_keeps State.txq (fskSetChannel _) (by simp), hc]

theorem Move.txqWf (h : Move s t) (hs : ramWf 64 s.txq.mem = true) : ramWf 64 t.txq.mem = true := by
  cases h with
  | txqPut b hb => exact ramWf_ramWrite hs (Nat.mod_lt _ (by decide))
  | txqTake hpos => exact hs
  | select id hid => rwa [fskSelect_txq_mem]
  | _ => simpa using hs

theorem kept_txqWf : Kept (fun s => ramWf 64 s.txq.mem = true) :=
  Kept.part (g := State.txq) (P := fun q => ramWf 64 q.mem = true) (fun _ _ _ _ _ => rfl) (fun _ => rfl) (fun _ => rfl)
    (fun _ _ hm h => hm.txqWf h)

/-! ### The buffers of the V.8 engine -/

/-- Adding to the receive set keeps both menu buffers. -/
@[simp] theorem rxCapAdd_v8_buffers (s : State) (i : Byte) :
    (rxCapAdd s i).v8.rxbuf = s.v8.rxbuf ∧ (rxCapAdd s i).v8.out = s.v8.out := by
  unfold rxCapAdd
  split <;> simp

/-- Storing a received byte keeps the outgoing menu. -/
@[simp] theorem v8StoreByte_v8_out (s : State) (b : Byte) : (v8StoreByte b s).v8.out = s.v8.out := by
  unfold v8StoreByte
  dsimp only
  split <;> rfl

theorem Move.rxbufWf (h : Move s t) (hs : ramWf 16 s.v8.rxbuf = true) : ramWf 16 t.v8.rxbuf = true := by
  cases h with
  | storeByte b =>
    unfold v8StoreByte
    dsimp only
    split
    · exact ramWf_ramWrite hs ‹_›
    · exact hs
  | _ => simpa [v8LoadMenu_v8, v8NextBit_v8] using hs

theorem Move.outWf (h : Move s t) (hs : ramWf 16 s.v8.out = true) : ramWf 16 t.v8.out = true := by
  cases h with
  | loadMenu items => exact ramWf_ramFill hs (by simpa using menuOctets_length items)
  | _ => simpa [v8NextBit_v8] using hs

/-- The received and the outgoing menu are in canonical form. -/
def menusWf (v : V8Regs) : Prop := ramWf 16 v.rxbuf = true ∧ ramWf 16 v.out = true

theorem kept_menusWf : Kept (fun s => menusWf s.v8) :=
  Kept.v8Regs (fun _ _ _ h => h) (by unfold menusWf; decide) (fun _ _ hm h => ⟨hm.rxbufWf h.1, hm.outWf h.2⟩)

/-! ### Capability sets -/

/-- Both capability sets are in canonical form. -/
def setsWf (v : V8Regs) : Prop := ramWf 16 v.txcaps = true ∧ ramWf 16 v.rxcaps = true

/-- An accepted item is stored inside the memory: the set is not full. -/
theorem ramWf_capAdd {m : Ram 8} {n : BitVec 5} {i : Byte} (hm : ramWf 16 m = true) (hn : n.toNat ≤ 16)
    (h : capAccepts (ramTake m n.toNat) i = true) : ramWf 16 (ramWrite m n.toNat i) = true := by
  have hfull := ((capAccepts_iff _ i).mp h).2.2
  rw [ramTake_length] at hfull
  exact ramWf_ramWrite hm (by omega)

theorem Move.rxcapsWf (h : Move s t) (hn : s.v8.nrx.toNat ≤ 16) (hs : ramWf 16 s.v8.rxcaps = true) :
    ramWf 16 t.v8.rxcaps = true := by
  cases h with
  | rxCapAdd i =>
    unfold Machine.rxCapAdd
    split
    · exact ramWf_capAdd hs hn ‹_›
    · exact hs
  | _ => simpa [v8LoadMenu_v8, v8NextBit_v8] using hs

/-- The capability sets, with the counts that keep each accepted item inside its memory. -/
theorem kept_setsWf : Kept (fun s => setsWf s.v8 ∧ s.setCountsOk) where
  ports _ _ _ h := h
  reset hz h := ⟨⟨rfl, rfl⟩, kept_setCounts.reset hz h⟩
  onHook s h := ⟨⟨h.1.1, rfl⟩, kept_setCounts.onHook s h.2⟩
  order _ _ _ h := h
  addCap s i u hu h := by
    obtain ⟨⟨htx, hrx⟩, hcount⟩ := h
    refine ⟨?_, kept_setCounts.addCap s i u hu hcount⟩
    obtain ⟨hacc, rfl⟩ := (txCapAdd_eq_some s i u).mp hu
    exact ⟨ramWf_capAdd htx hcount.1 hacc, hrx⟩
  move s t hm h := by
    obtain ⟨⟨htx, hrx⟩, hcount⟩ := h
    exact ⟨⟨hm.txcaps.2 ▸ htx, hm.rxcapsWf hcount.2 hrx⟩, kept_setCounts.move s t hm hcount⟩

/-! ### All memories -/

theorem vector_all_iff {α : Type} {n : Nat} {v : Vector α n} {p : α → Bool} :
    v.toList.all p = true ↔ ∀ i : Fin n, p v[i] = true := by
  rw [Vector.all_toList, Vector.all_eq_true, Fin.forall_iff]
  rfl

theorem memoryWf_iff (s : State) :
    s.memoryWf = true ↔ ramsWf s ∧ ramWf 64 s.txq.mem = true ∧ setsWf s.v8 ∧ menusWf s.v8 := by
  simp only [ramsWf, State.iqAt, State.chanAt, forall_table_iff, forall_ring_iff]
  simp only [State.memoryWf, Bool.and_eq_true, vector_all_iff, tableWf, setsWf, menusWf, and_assoc]

theorem kept_memoryInv : Kept State.memoryInv :=
  (kept_ramsWf.and (kept_txqWf.and (kept_setsWf.and kept_menusWf))).congr (fun s => by
    rw [State.memoryInv, memoryWf_iff]
    tauto)

end Sys2Proof.Proofs
end

section
/-! # What a step answers -/

namespace Sys2Proof.Proofs

open Sys2Proof.Machine Sys2Proof.Laws

variable {s : State} {r r' : Result}

/-! ### Every operation answers a next state -/

/-- The outcome is a next state: no fault and no refusal (`spec/60_exceptions.md` R355). -/
def answers (r : Result) : Prop := ∃ t, r = .next t

theorem answers_ok (s : State) (results samples : List Word) : answers (answerOk s results samples) := ⟨_, rfl⟩

theorem answers_fail (s : State) : answers (answerFail s) := ⟨_, rfl⟩

theorem answers_illegal (s : State) : answers (answerIllegal s) := ⟨_, rfl⟩

theorem answers_ite {c : Prop} [Decidable c] (h : answers r) (h' : answers r') : answers (if c then r else r') := by
  split
  · exact h
  · exact h'

theorem answers_rdReg (index : BitVec 8) (id : BitVec 16) (s : State) : answers (execRdReg index id s) := by
  unfold execRdReg
  split
  · exact answers_fail s
  · exact answers_ok _ _ _

theorem answers_rdMem (mem : BitVec 8) (addr : BitVec 16) (s : State) : answers (execRdMem mem addr s) := by
  unfold execRdMem
  split
  · exact answers_fail s
  · exact answers_ok _ _ _

theorem answers_frmLoad (k : Fin 3) (b : Byte) (s : State) : answers (execFrmLoad k b s) := by
  unfold execFrmLoad
  split
  · exact answers_fail s
  · exact answers_ok _ _ _

theorem answers_frmPush (k : Fin 3) (b : Bool) (s : State) : answers (execFrmPush k b s) := by
  unfold execFrmPush
  dsimp only
  split <;> exact answers_ok _ _ _

theorem answers_detCfg (ids : List Word) (s : State) : answers (execDetCfg ids s) := by
  unfold execDetCfg
  refine answers_ite (answers_fail s) ?_
  split
  · exact answers_fail s
  · exact answers_ok _ _ _

theorem answers_txByte (b : Byte) (s : State) : answers (execTxByte b s) := by
  unfold execTxByte
  split
  · exact answers_fail s
  · exact answers_ok _ _ _

theorem answers_v8AddCap (item : Byte) (s : State) : answers (execV8AddCap item s) := by
  unfold execV8AddCap
  split
  · exact answers_fail s
  · exact answers_ok _ _ _

theorem answers_serialBit (b : Bool) (s : State) : answers (execSerialBit b s) := by
  unfold execSerialBit
  dsimp only
  split <;> exact answers_ok _ _ _

theorem answers_timerFire (w : Timer) (s : State) : answers (execTimerFire w s) := by
  unfold execTimerFire
  refine answers_ite (answers_fail s) ?_
  cases w with
  | postDial => exact answers_ite (answers_fail s) (answers_ok _ _ _)
  | preData => exact answers_ok _ _ _

/-- Every operation on every state has exactly one outcome, a next state (`spec/70_reset_and_hazards.md` R412). -/
theorem exec_answers (i : Instr) (s : State) : answers (exec i s) := by
  cases i with
  | setRate hz => exact answers_ite (answers_fail s) (answers_ok _ _ _)
  | rdReg index id => exact answers_rdReg index id s
  | rdMem mem addr => exact answers_rdMem mem addr s
  | gzInit u n f => exact answers_ite (answers_fail s) (answers_ok _ _ _)
  | iqBuild k len f => exact answers_ite (answers_fail s) (answers_ok _ _ _)
  | frmLoad k b => exact answers_frmLoad k b s
  | frmPush k b => exact answers_frmPush k b s
  | toneStart id so total gain => exact answers_ite (answers_ok _ _ _) (answers_fail s)
  | detCfg ids => exact answers_detCfg ids s
  | fskSelect id => exact answers_ite (answers_fail s) (answers_ok _ _ _)
  | fskTxch c => exact answers_ite (answers_fail s) (answers_ok _ _ _)
  | fskRxch c => exact answers_ite (answers_fail s) (answers_ok _ _ _)
  | txByte b => exact answers_txByte b s
  | v8Start role tone =>
    exact answers_ite (answers_illegal s) (answers_ite (answers_fail s) (answers_ite (answers_fail s) (answers_ok _ _ _)))
  | v8AddCap item => exact answers_v8AddCap item s
  | restart tone => exact answers_ite (answers_ok _ _ _) (answers_fail s)
  | setOffHook tone => exact answers_ite (answers_fail s) (answers_ok _ _ _)
  | serialBit b => exact answers_serialBit b s
  | timerFire w => exact answers_timerFire w s
  | _ => exact answers_ok _ _ _

/-! ### A step by what stands at the command port -/

theorem step_none (h : s.pending = []) : step s = .next s := by
  simp only [step, State.takeFrame, h]

theorem step_instr {f : Frame} {rest : List Frame} {i : Instr} (h : s.pending = f :: rest) (hd : decode f = .ok i) :
    step s = exec i { s with pending := rest } := by
  simp only [step, State.takeFrame, h, hd]

theorem step_error {f : Frame} {rest : List Frame} {e : DecodeError} (h : s.pending = f :: rest)
    (hd : decode f = .error e) : step s = answerDecodeError e { s with pending := rest } := by
  simp only [step, State.takeFrame, h, hd]

/-- A rejected command word is answered; a number of words that fits no operation is not. -/
theorem answers_decodeError {e : DecodeError} (h : e ≠ .wordCount) (s : State) : answers (answerDecodeError e s) := by
  cases e with
  | unallocatedOp => exact answers_illegal s
  | illegalField => exact answers_illegal s
  | wordCount => exact absurd rfl h

theorem step_answers {f : Frame} {rest : List Frame} (h : s.pending = f :: rest) (hd : decode f ≠ .error .wordCount) :
    answers (step s) := by
  cases hf : decode f with
  | ok i =>
    rw [step_instr h hf]
    exact exec_answers i _
  | error e =>
    rw [step_error h hf]
    exact answers_decodeError (fun he => hd (he ▸ hf)) _

theorem step_wordCount {f : Frame} {rest : List Frame} (h : s.pending = f :: rest) :
    decode f = .error .wordCount ↔ step s = .fault .wordCount := by
  refine ⟨fun hd => by rw [step_error h hd]; rfl, fun hs => by_contra fun hd => ?_⟩
  obtain ⟨t, ht⟩ := step_answers h hd
  rw [ht] at hs
  cases hs

end Sys2Proof.Proofs
end

section
/-! # The data path from `TX_BYTE` to the bit sink -/

namespace Sys2Proof.Proofs

open Sys2Proof.Machine Sys2Proof.Laws

/-! ### `TX_BYTE` -/

/-- The queue with a byte behind the newest one (`spec/20_memory.md` R81). -/
def queued (q : TxQueue) (b : Byte) : TxQueue :=
  { mem := ramWrite q.mem ((q.head.toNat + q.count.toNat) % 64) b, head := q.head, count := q.count + 1#7 }

/-- The state after `TX_BYTE` on a queue that is not full. -/
def afterTxByte (s : State) (b : Byte) : State := State.answeredOk { s with txq := queued s.txq b } [] [] []

theorem exec_txByte_full {b : Byte} {s : State} (h : s.txq.count.toNat = 64) : exec (.txByte b) s = answerFail s := by
  have hput : txqPut b s.begin = none := (txqPut_eq_none s.begin b).mpr h
  change execTxByte b s = _
  rw [execTxByte, hput]

theorem exec_txByte_put {b : Byte} {s : State} (h : s.txq.count.toNat ≠ 64) :
    exec (.txByte b) s = .next (afterTxByte s b) := by
  have hput : txqPut b s.begin = some { s.begin with txq := queued s.txq b } :=
    (txqPut_eq_some s.begin b _).mpr ⟨h, rfl⟩
  change execTxByte b s = _
  rw [execTxByte, hput]
  rfl

/-! ### One bit through the line codec -/

/-- One bit of the loop from `DATA_POP_TX_BIT` to `DATA_PUSH_RX_BIT`: the codec's builder gives it, its parser takes it. -/
def relayBit (c : Codec) : Codec × Option Byte := c.pop.1.push c.pop.2

/-- What `frm_push` makes of a bit while it waits for a start bit (`spec/41_frame_codec.md` R164). -/
theorem codec_push_start {c : Codec} (h : c.pst = .idle) :
    c.push false = ({ c with pst := .data, pk := 0#3, pacc := 0#8 }, none) := by
  simp [Codec.push, h]

/-- What `frm_push` makes of a data bit (`spec/41_frame_codec.md` R164). -/
theorem codec_push_data {c : Codec} (b : Bool) (h : c.pst = .data) :
    c.push b =
      ({ c with
        pacc := c.pacc ||| ((if b then 1#8 else 0#8) <<< dataBitPos c.order c.pk.toNat)
        pst := if c.pk = 7#3 then .stop else .data
        pk := if c.pk = 7#3 then c.pk else c.pk + 1#3 }, none) := by
  unfold Codec.push
  simp only [h]
  split <;> simp

/-- What `frm_push` makes of a good stop bit (`spec/41_frame_codec.md` R164). -/
theorem codec_push_stop {c : Codec} (h : c.pst = .stop) : c.push true = ({ c with pst := .idle }, some c.pacc) := by
  simp [Codec.push, h]

/-! ### The bits of a frame -/

theorem dataBitPos_lt (o : BitOrder) {i : Nat} (h : i < 8) : dataBitPos o i < 8 := by
  cases o with
  | lsbFirst => exact h
  | msbFirst => exact Nat.lt_of_le_of_lt (Nat.sub_le 7 i) (by decide)

/-- The time of a bit position is the position of that time. -/
theorem dataBitPos_eq_iff (o : BitOrder) {i j : Nat} (hi : i < 8) (hj : j < 8) :
    dataBitPos o j = i ↔ dataBitPos o i = j := by
  cases o <;> simp only [dataBitPos] <;> omega

theorem getLsbD_foldl_or {w : Nat} {α : Type} (g : α → BitVec w) (l : List α) (v : BitVec w) (j : Nat) :
    (l.foldl (fun u a => u ||| g a) v).getLsbD j = (v.getLsbD j || l.any (fun a => (g a).getLsbD j)) := by
  induction l generalizing v with
  | nil => simp
  | cons a l ih => rw [List.foldl_cons, ih, BitVec.getLsbD_or, List.any_cons, Bool.or_assoc]

/-- A shifted bit word has its bit at the shift and nothing elsewhere. -/
theorem getLsbD_bit_shift {w : Nat} (x : Bool) {k j : Nat} (hj : j < w) :
    ((if x then 1#w else 0#w) <<< k).getLsbD j = (decide (k = j) && x) := by
  cases x with
  | false => simp
  | true =>
    rw [if_pos rfl, BitVec.getLsbD_shiftLeft, BitVec.getLsbD_one, Bool.and_true, Bool.eq_iff_iff]
    simp only [Bool.and_eq_true, decide_eq_true_eq, Bool.not_eq_true', decide_eq_false_iff_not]
    omega

/-- The i-th data bit in time order stands in bit `8 - i` of the frame (`spec/41_frame_codec.md` R161). -/
theorem frameBits_data (b : Byte) (o : BitOrder) {i : Nat} (h : i < 8) :
    (frameBits b o).getLsbD (8 - i) = b.getLsbD (dataBitPos o i) := by
  have hbit : ∀ k, ((if b.getLsbD (dataBitPos o k) then 1#10 else 0#10) <<< (8 - k)).getLsbD (8 - i) =
      (decide (8 - k = 8 - i) && b.getLsbD (dataBitPos o k)) := fun k => getLsbD_bit_shift _ (by omega)
  have hstop : (1#10).getLsbD (8 - i) = false := by
    rw [BitVec.getLsbD_one, decide_eq_false (p := 8 - i = 0) (by omega), Bool.and_false]
  unfold frameBits
  rw [BitVec.getLsbD_or, getLsbD_foldl_or, hstop, BitVec.getLsbD_zero, Bool.or_false, Bool.false_or, Bool.eq_iff_iff]
  simp only [hbit, List.any_eq_true, List.mem_range, Bool.and_eq_true, decide_eq_true_eq]
  constructor
  · rintro ⟨k, hk, heq, hb⟩
    rwa [show i = k by omega]
  · exact fun hb => ⟨i, h, rfl, hb⟩

/-! ### One frame through the line codec -/

/-- The codec in the middle of a frame of `b`: the start bit and `i` data bits have been relayed
(`spec/41_frame_codec.md` R161, R164). -/
structure Relaying (b : Byte) (i : Nat) (c : Codec) : Prop where
  bframe : c.bframe = frameBits b c.order
  bn : c.bn.toNat = 9 - i
  pst : c.pst = if i < 8 then .data else .stop
  pk : i < 8 → c.pk.toNat = i
  pacc : ∀ j, j < 8 → c.pacc.getLsbD j = (decide (dataBitPos c.order j < i) && b.getLsbD j)

variable {b : Byte} {c : Codec}

/-- The start bit of a loaded frame opens the parser. -/
theorem relaying_start (hp : c.pst = .idle) (hf : c.bframe = frameBits b c.order) (hn : c.bn = 10#4) :
    Relaying b 0 (relayBit c).1 ∧ (relayBit c).2 = none := by
  have hbit : c.bframe.getLsbD 9 = false := hf ▸ (frameBits_ends b c.order).1
  have hpop : c.pop = ({ c with bn := 9#4 }, false) := by
    rw [codec_pop_busy (by rw [hn]; decide), hn]
    exact congrArg _ hbit
  have hpush : relayBit c = ({ c with bn := 9#4, pst := .data, pk := 0#3, pacc := 0#8 }, none) := by
    rw [relayBit, hpop]
    exact codec_push_start hp
  rw [hpush]
  exact ⟨⟨hf, rfl, rfl, fun _ => rfl, fun j _ => by simp⟩, rfl⟩

/-- One more position reached: those below `i`, and the one at `i`. -/
theorem or_next_bit {b : Byte} {p q i j : Nat} (h : p = i ↔ q = j) :
    (decide (p < i) && b.getLsbD j || decide (q = j) && b.getLsbD q) = (decide (p < i + 1) && b.getLsbD j) := by
  by_cases hq : q = j
  · have hp := h.mpr hq
    simp [hq, hp]
  · have hp : p ≠ i := fun hp => hq (h.mp hp)
    have hlt : decide (p < i + 1) = decide (p < i) := decide_eq_decide.mpr (by omega)
    rw [hlt, decide_eq_false hq, Bool.false_and, Bool.or_false]

/-- A data bit goes into the accumulator at its position. -/
theorem Relaying.next {i : Nat} (h : Relaying b i c) (hi : i < 8) :
    Relaying b (i + 1) (relayBit c).1 ∧ (relayBit c).2 = none := by
  obtain ⟨hf, hn, hp, hpk, ha⟩ := h
  have hk := hpk hi
  have hpop : c.pop = ({ c with bn := c.bn - 1#4 }, b.getLsbD (dataBitPos c.order i)) := by
    rw [codec_pop_busy (by bv_omega), hn, hf, show 9 - i - 1 = 8 - i by omega, frameBits_data b c.order hi]
  have hlast : c.pk = 7#3 ↔ ¬ i + 1 < 8 := by
    rw [← BitVec.toNat_inj, hk]
    simp
    omega
  have hpush : relayBit c =
      ({ c with
        bn := c.bn - 1#4
        pacc := c.pacc ||| ((if b.getLsbD (dataBitPos c.order i) then 1#8 else 0#8) <<< dataBitPos c.order i)
        pst := if c.pk = 7#3 then .stop else .data
        pk := if c.pk = 7#3 then c.pk else c.pk + 1#3 }, none) := by
    rw [relayBit, hpop, codec_push_data _ (by simpa [hi] using hp), hk]
  rw [hpush]
  refine ⟨⟨hf, by bv_omega, ?_, fun h => ?_, fun j hj => ?_⟩, rfl⟩
  · simp only [hlast, ite_not]
  · have hne : c.pk ≠ 7#3 := fun he => hlast.mp he h
    simp only [hne, if_false]
    bv_omega
  · rw [BitVec.getLsbD_or, getLsbD_bit_shift _ hj, ha j hj]
    exact or_next_bit (dataBitPos_eq_iff c.order hi hj)

/-- The stop bit closes the frame: the byte comes out, builder and parser are idle. -/
theorem Relaying.stop (h : Relaying b 8 c) :
    (relayBit c).1.bn = 0#4 ∧ (relayBit c).1.pst = .idle ∧ (relayBit c).2 = some b := by
  obtain ⟨hf, hn, hp, -, ha⟩ := h
  have hbyte : c.pacc = b := by
    refine BitVec.eq_of_getLsbD_eq (fun j hj => ?_)
    rw [ha j hj, decide_eq_true (dataBitPos_lt c.order hj), Bool.true_and]
  have hpop : c.pop = ({ c with bn := c.bn - 1#4 }, true) := by
    rw [codec_pop_busy (by bv_omega), hn, hf]
    exact congrArg _ (frameBits_ends b c.order).2
  have hpush : relayBit c = ({ c with bn := c.bn - 1#4, pst := .idle }, some c.pacc) := by
    rw [relayBit, hpop]
    exact codec_push_stop hp
  rw [hpush, hbyte]
  exact ⟨by bv_omega, rfl, rfl⟩

/-! ### One bit of the loop on the state -/

/-- The line codec and the queue when the bit source is asked for a bit: an idle builder takes the oldest byte, if there is one
(`spec/43_fsk_engine.md` R243). -/
def nextFrame (c : Codec) (q : TxQueue) : Codec × TxQueue :=
  if c.bn = 0#4 ∧ 0 < q.count.toNat then
    ({ c with bframe := frameBits (ramRead q.mem q.head.toNat) c.order, bn := 10#4 },
      { q with head := BitVec.ofNat 6 ((q.head.toNat + 1) % 64), count := q.count - 1#7 })
  else (c, q)

variable {q : TxQueue}

theorem nextFrame_busy (h : c.bn ≠ 0#4) : nextFrame c q = (c, q) := if_neg (fun h' => h h'.1)

theorem codecAt_setLine (s : State) (c : Codec) : (s.setCodec lineCodec c).codecAt lineCodec = c := by
  simp [codecAt_setCodec, lineCodec]

/-- The bit source in terms of the line codec and the queue. -/
theorem dataPopTxBit_eq (s : State) :
    dataPopTxBit s =
      (State.setCodec { s with txq := (nextFrame (s.codecAt lineCodec) s.txq).2 } lineCodec
        (nextFrame (s.codecAt lineCodec) s.txq).1.pop.1, (nextFrame (s.codecAt lineCodec) s.txq).1.pop.2) := by
  unfold dataPopTxBit nextFrame
  split
  · rename_i h
    have hload := frmLoad_eq (txqTake s).1 lineCodec (txqTake s).2
    rw [codecAt_congr (t := (txqTake s).1) (s := s) rfl lineCodec, if_pos h.1] at hload
    dsimp only
    rw [hload, Option.getD_some, frmPop, codecAt_setLine, setCodec_setCodec]
    rfl
  · rfl

/-- The bit sink in terms of the line codec (`spec/43_fsk_engine.md` R244). -/
theorem dataPushRxBit_eq (bit : Bool) (s : State) :
    dataPushRxBit bit s =
      State.setCodec { s with resp := { s.resp with
        events := s.resp.events ++ (((s.codecAt lineCodec).push bit).2.map Event.rxByte).toList } }
        lineCodec ((s.codecAt lineCodec).push bit).1 := by
  unfold dataPushRxBit frmPush
  dsimp only
  split <;> rename_i h <;> rw [h]
  · rfl
  · simp [State.setCodec]

/-- The bit that an operation answered, read back from its result word. -/
theorem decide_ok_results (s : State) (x : Bool) : decide ((s.ok [bitWord x] []).resp.results = [1#32]) = x := by
  cases x <;> rfl

/-- What is left after a run of the loop: an empty queue and an idle line. -/
def lineDone (s : State) : Prop :=
  s.txq.count = 0#7 ∧ (s.codecAt lineCodec).bn = 0#4 ∧ (s.codecAt lineCodec).pst = .idle

/-- From every state with this line codec and this queue, `n` bits given from the source to the sink bring the bytes `bs` out, and
nothing is left. -/
def Delivers (n : Nat) (c : Codec) (q : TxQueue) (bs : List Byte) : Prop :=
  ∀ s : State, s.codecAt lineCodec = c → s.txq = q →
    ∃ t rs, relayBits .dataPopTxBit .dataPushRxBit n s = some (t, rs) ∧
      rs.flatMap Response.events = bs.map Event.rxByte ∧ lineDone t

theorem delivers_nil (hq : q.count = 0#7) (hn : c.bn = 0#4) (hp : c.pst = .idle) : Delivers 0 c q [] := by
  rintro s rfl rfl
  exact ⟨s, [], rfl, rfl, hq, hn, hp⟩

/-- The state after one bit of the loop. -/
def relayed (s : State) : State :=
  (dataPushRxBit (dataPopTxBit s.begin).2 (dataPopTxBit s.begin).1.begin).ok [] []

theorem relayBits_succ (n : Nat) (s : State) :
    relayBits .dataPopTxBit .dataPushRxBit (n + 1) s =
      (relayBits .dataPopTxBit .dataPushRxBit n (relayed s)).map (fun r => (r.1, (relayed s).resp :: r.2)) := by
  have hpop : exec .dataPopTxBit s = .next ((dataPopTxBit s.begin).1.ok [bitWord (dataPopTxBit s.begin).2] []) := rfl
  have hpush : ∀ (x : Bool) (u : State), exec (.dataPushRxBit x) u = .next ((dataPushRxBit x u.begin).ok [] []) :=
    fun _ _ => rfl
  rw [relayBits]
  simp only [hpop, hpush, decide_ok_results]
  rfl

/-- One bit of the loop is one bit through the line codec, after the builder has taken a byte if it was idle. -/
theorem relayed_line (s : State) {c : Codec} {q : TxQueue} (h : nextFrame (s.codecAt lineCodec) s.txq = (c, q)) :
    (relayed s).codecAt lineCodec = (relayBit c).1 ∧ (relayed s).txq = q ∧
      (relayed s).resp.events = ((relayBit c).2.map Event.rxByte).toList := by
  have hpop : dataPopTxBit s.begin =
      (State.setCodec { s.begin with txq := q } lineCodec c.pop.1, c.pop.2) := by
    rw [dataPopTxBit_eq, codecAt_congr (t := s.begin) (s := s) rfl, begin_txq, h]
  rw [relayed, hpop, dataPushRxBit_eq]
  have hcodec : ((State.setCodec { s.begin with txq := q } lineCodec c.pop.1).begin).codecAt lineCodec = c.pop.1 :=
    codecAt_setLine _ _
  rw [hcodec]
  exact ⟨codecAt_setLine _ _, rfl, rfl⟩

/-- The bytes that the rest of the loop brings out, behind the byte of this bit. -/
theorem Delivers.step {n : Nat} {bs : List Byte} {c₁ : Codec} {q₁ : TxQueue} (hf : nextFrame c q = (c₁, q₁))
    (h : Delivers n (relayBit c₁).1 q₁ bs) : Delivers (n + 1) c q ((relayBit c₁).2.toList ++ bs) := by
  rintro s rfl rfl
  obtain ⟨hline, hq, hev⟩ := relayed_line s hf
  obtain ⟨t, rs, hrun, hrs, hdone⟩ := h (relayed s) hline hq
  refine ⟨t, (relayed s).resp :: rs, by rw [relayBits_succ, hrun]; rfl, ?_, hdone⟩
  rw [List.flatMap_cons, hrs, hev, List.map_append]
  cases (relayBit c₁).2 <;> rfl

/-! ### The bytes of the queue -/

/-- The queue holds the bytes `bs`, oldest first (`spec/20_memory.md` R81). -/
structure Holds (q : TxQueue) (bs : List Byte) : Prop where
  count : q.count.toNat = bs.length
  word : ∀ i b, bs[i]? = some b → ramRead q.mem ((q.head.toNat + i) % 64) = b

theorem holds_nil (h : q.count = 0#7) : Holds q [] := ⟨by rw [h]; rfl, fun i b hb => by simp at hb⟩

/-- A byte put into the queue stands behind the others. -/
theorem Holds.queued {bs : List Byte} (h : Holds q bs) (hl : bs.length < 64) (b : Byte) :
    Holds (Proofs.queued q b) (bs ++ [b]) := by
  obtain ⟨hcount, hword⟩ := h
  have hc : (q.count + 1#7).toNat = bs.length + 1 := by bv_omega
  refine ⟨by simpa [Proofs.queued] using hc, fun i v hv => ?_⟩
  have hi : i < bs.length + 1 := by simpa using (List.getElem?_eq_some_iff.mp hv).1
  simp only [Proofs.queued, hcount, ramRead_ramWrite]
  by_cases he : i = bs.length
  · subst he
    simpa using hv
  · rw [if_neg (by omega)]
    rw [List.getElem?_append_left (by omega)] at hv
    exact hword i v hv

/-- An idle builder takes the oldest byte, the queue keeps the others. -/
theorem Holds.nextFrame {bs : List Byte} (h : Holds q (b :: bs)) (hn : c.bn = 0#4) :
    ∃ q', Proofs.nextFrame c q = ({ c with bframe := frameBits b c.order, bn := 10#4 }, q') ∧ Holds q' bs := by
  obtain ⟨hcount, hword⟩ := h
  rw [List.length_cons] at hcount
  have hb : ramRead q.mem q.head.toNat = b := by
    simpa [Nat.mod_eq_of_lt q.head.isLt] using hword 0 b rfl
  have hc : (q.count - 1#7).toNat = bs.length := by bv_omega
  refine ⟨_, by rw [Proofs.nextFrame, if_pos ⟨hn, by omega⟩, hb], hc, fun i v hv => ?_⟩
  have hi := hword (i + 1) v (by simpa using hv)
  have haddr : ((BitVec.ofNat 6 ((q.head.toNat + 1) % 64)).toNat + i) % 64 = (q.head.toNat + (i + 1)) % 64 := by
    simp only [BitVec.toNat_ofNat]
    omega
  rwa [haddr]

theorem Holds.count_zero (h : Holds q []) : q.count = 0#7 := BitVec.eq_of_toNat_eq h.count

/-! ### Bytes through the loop -/

variable {bs : List Byte} {n : Nat}

/-- The last `k` data bits of a frame and its stop bit bring its byte out. -/
theorem delivers_frame (k : Nat) (hr : Relaying b (8 - k) c) (hk : k ≤ 8)
    (hrest : ∀ c', c'.bn = 0#4 → c'.pst = .idle → Delivers n c' q bs) : Delivers (n + 1 + k) c q (b :: bs) := by
  induction k generalizing c with
  | zero =>
    obtain ⟨hn, hp, hbyte⟩ := hr.stop
    have hstep := (hrest _ hn hp).step (nextFrame_busy (c := c) (by have := hr.bn; bv_omega))
    rwa [hbyte] at hstep
  | succ k ih =>
    obtain ⟨hnext, hnone⟩ := hr.next (by omega)
    rw [show 8 - (k + 1) + 1 = 8 - k by omega] at hnext
    have hstep := (ih hnext (by omega)).step (nextFrame_busy (c := c) (by have := hr.bn; bv_omega))
    rwa [hnone] at hstep

/-- Ten bits per byte bring the whole queue out, in order. -/
theorem delivers_queue (hq : Holds q bs) (hn : c.bn = 0#4) (hp : c.pst = .idle) : Delivers (10 * bs.length) c q bs := by
  induction bs generalizing c q with
  | nil => exact delivers_nil hq.count_zero hn hp
  | cons b bs ih =>
    obtain ⟨q', hf, hq'⟩ := hq.nextFrame hn
    obtain ⟨hstart, hnone⟩ := relaying_start (b := b)
      (c := { c with bframe := frameBits b c.order, bn := 10#4 }) hp rfl rfl
    have hstep := (delivers_frame 8 hstart (le_refl 8) (fun c' hn' hp' => ih hq' hn' hp')).step hf
    rw [hnone] at hstep
    rwa [List.length_cons, Nat.mul_succ]

/-- `TX_BYTE` of each byte of a list fills the queue and leaves the line as it is. -/
theorem runAll_txByte {cs : List Byte} (s : State) (hq : Holds s.txq cs) (hl : cs.length + bs.length ≤ 64) :
    ∃ t rs, runAll (bs.map Instr.txByte) s = some (t, rs) ∧ Holds t.txq (cs ++ bs) ∧ t.codec = s.codec := by
  induction bs generalizing s cs with
  | nil => exact ⟨s, [], rfl, by simpa using hq, rfl⟩
  | cons b bs ih =>
    rw [List.length_cons] at hl
    have hput := exec_txByte_put (b := b) (s := s) (by rw [hq.count]; omega)
    obtain ⟨t, rs, hrun, ht, hcodec⟩ := ih (cs := cs ++ [b]) (afterTxByte s b)
      (hq.queued (by omega) b) (by simp; omega)
    refine ⟨t, (afterTxByte s b).resp :: rs, ?_, by simpa using ht, hcodec⟩
    rw [List.map_cons, runAll, hput]
    simp only [hrun]
    rfl

end Sys2Proof.Proofs
end

section
/-! # The obligations on memories, the queue and the step -/

namespace Sys2Proof.Proofs

open Sys2Proof.Machine Sys2Proof.Laws

/-- Settles O11, memory by memory: each write stands below the size of its memory. -/
theorem memoryInvariant : Obligations.MemoryInvariant := by
  unfold Obligations.MemoryInvariant
  exact fun _ _ => kept_memoryInv.step

/-- Settles O5: the step by what stands at the port, and no operation faults or refuses. -/
theorem stepRunsDecoded : Obligations.StepRunsDecoded := by
  unfold Obligations.StepRunsDecoded
  exact ⟨fun _ _ _ _ => step_instr, fun _ => step_none, fun _ _ _ => step_wordCount, fun _ _ _ => step_answers⟩

/-- Settles O43: a full queue refuses the byte, any other stores it behind the newest. -/
theorem txByteResult : Obligations.TxByteResult := by
  unfold Obligations.TxByteResult
  exact fun b s => ⟨exec_txByte_full, fun h => ⟨_, exec_txByte_put h, fun a => ramRead_ramWrite _ _ a b⟩⟩

/-- Settles O45: the queue holds the bytes, and each frame the source sends is the byte the sink reports. -/
theorem dataPathRoundTrip : Obligations.DataPathRoundTrip := by
  unfold Obligations.DataPathRoundTrip
  intro bs s hlen hcount hbn hpst
  rw [← codecAt_fin s 0] at hbn hpst
  obtain ⟨t₀, rs₀, hrun, hholds, hcodec⟩ := runAll_txByte s (holds_nil hcount) (by simpa using hlen)
  have hline : t₀.codecAt lineCodec = s.codecAt lineCodec := codecAt_congr hcodec lineCodec
  obtain ⟨t, rs, hrelay, hevents, hempty, hn, hp⟩ :=
    delivers_queue hholds hbn hpst t₀ hline rfl
  refine ⟨t₀, rs₀, t, rs, hrun, hrelay, hevents, hempty, ?_⟩
  rw [← codecAt_fin t 0]
  exact ⟨hn, hp⟩

end Sys2Proof.Proofs
end

section
/-! # A frame and the instruction it encodes (`spec/30_encoding.md` R90 to R101) -/

namespace Sys2Proof.Proofs

open Sys2Proof.Machine Sys2Proof.Laws

/-! ### The parts of a frame -/

/-- What the decoder reads from a legal frame of a row: the fields pass, the words are as many as the row fixes. -/
theorem legal_eq_ok_iff {f : Frame} {ok : Bool} {i j : Instr} :
    f.legal ok i = .ok j ↔
      ok = true ∧ f.args.length = argWords f.cw ∧ f.samples.length = sampleWords f.cw ∧ i = j := by
  unfold Frame.legal
  split
  · split <;> simp_all
  · simp_all

/-- A frame is its command word's three fields and its words. -/
theorem mk_eq_frame_iff {f : Frame} {op sel : BitVec 8} {imm : BitVec 16} {args samples : List Word} :
    (⟨mkCw op sel imm, args, samples⟩ : Frame) = f ↔
      cwOp f.cw = op ∧ cwSel f.cw = sel ∧ cwImm f.cw = imm ∧ f.args = args ∧ f.samples = samples := by
  constructor
  · rintro rfl
    simp
  · rintro ⟨rfl, rfl, rfl, rfl, rfl⟩
    rw [mkCw_fields]

/-! ### A field that is admitted and read is the field the encoder writes -/

/-- A unit, table, codec or channel number. -/
theorem read_index {n : Nat} [NeZero n] (hn : n ≤ 256) {sel : BitVec 8} {u : Fin n} :
    sel.toNat < n ∧ Fin.ofNat n sel.toNat = u ↔ sel = BitVec.ofNat 8 u.val := by
  rw [← BitVec.toNat_inj, selOf_toNat u hn, Fin.ext_iff, Fin.val_ofNat]
  have hu := u.isLt
  constructor
  · rintro ⟨hlt, h⟩
    rwa [Nat.mod_eq_of_lt hlt] at h
  · intro h
    exact ⟨h ▸ hu, by rw [h, Nat.mod_eq_of_lt hu]⟩

/-- A field below 2 is 0 or 1. -/
theorem lt_two_iff {w : Nat} (hw : 1 < w) {v : BitVec w} : v.toNat < 2 ↔ v = 0#w ∨ v = 1#w := by
  have h1 : (1#w).toNat = 1 := by rw [BitVec.toNat_ofNat, Nat.mod_eq_of_lt (Nat.one_lt_two_pow (by omega))]
  rw [← BitVec.toNat_inj, ← BitVec.toNat_inj, h1, BitVec.toNat_ofNat, Nat.zero_mod]
  omega

theorem read_bit {imm : BitVec 16} {b : Bool} : imm.toNat < 2 ∧ bitField imm = b ↔ imm = bitImm b := by
  constructor
  · rintro ⟨hlt, rfl⟩
    obtain rfl | rfl := (lt_two_iff (by decide)).mp hlt <;> rfl
  · rintro rfl
    exact ⟨bitImm_lt b, bitField_bitImm b⟩

theorem read_order {imm : BitVec 16} {o : BitOrder} : imm.toNat < 2 ∧ orderField imm = o ↔ imm = orderImm o := by
  constructor
  · rintro ⟨hlt, rfl⟩
    obtain rfl | rfl := (lt_two_iff (by decide)).mp hlt <;> rfl
  · rintro rfl
    exact ⟨orderImm_lt o, orderField_orderImm o⟩

theorem read_timer {sel : BitVec 8} {w : Timer} : sel.toNat < 2 ∧ timerField sel = w ↔ sel = timerSel w := by
  constructor
  · rintro ⟨hlt, rfl⟩
    obtain rfl | rfl := (lt_two_iff (by decide)).mp hlt <;> rfl
  · rintro rfl
    exact ⟨timerSel_lt w, timerField_timerSel w⟩

theorem read_byte {imm : BitVec 16} {b : Byte} : imm.toNat < 256 ∧ imm.setWidth 8 = b ↔ imm = b.setWidth 16 := by
  constructor
  · rintro ⟨hlt, rfl⟩
    bv_omega
  · rintro rfl
    exact ⟨byteImm_lt b, by bv_omega⟩

/-- The two parts of the `sel` of `CORRELATE` make it up. -/
theorem correlateSel_read : ∀ sel : BitVec 8, sel.toNat < 8 →
    correlateSel (Fin.ofNat 4 sel.toNat) (componentField sel) = sel := by decide

/-- The table of `CORRELATE` stands in the two low bits whatever the component. -/
theorem table_correlateSel (t : Fin 4) (q : Component) : Fin.ofNat 4 (correlateSel t q).toNat = t := by
  revert t
  cases q <;> decide

theorem read_correlate {sel : BitVec 8} {t : Fin 4} {q : Component} :
    sel.toNat < 8 ∧ Fin.ofNat 4 sel.toNat = t ∧ componentField sel = q ↔ sel = correlateSel t q := by
  constructor
  · rintro ⟨hlt, rfl, rfl⟩
    exact (correlateSel_read sel hlt).symm
  · rintro rfl
    exact ⟨correlateSel_lt t q, table_correlateSel t q, componentField_correlateSel t q⟩

/-- `V8_START`: only the role `SEND` has a tone (`spec/60_exceptions.md` R357). -/
theorem read_role {sel : BitVec 8} {imm tone : BitVec 16} {role : Role} :
    (sel = 0#8 ∨ sel = 1#8 ∧ imm = 0#16) ∧ roleField sel = role ∧ imm = tone ↔
      sel = roleSel role ∧ imm = tone ∧ roleToneOk role tone = true := by
  constructor
  · rintro ⟨rfl | ⟨rfl, rfl⟩, rfl, rfl⟩ <;> exact ⟨rfl, rfl, rfl⟩
  · rintro ⟨rfl, rfl, h⟩
    cases role with
    | send => exact ⟨.inl rfl, rfl, rfl⟩
    | listen => exact ⟨.inr ⟨rfl, by simpa [roleToneOk] using h⟩, rfl, rfl⟩

/-- A field that counts a list is the field the encoder writes, and the list is one the field can count. -/
theorem read_count {imm : BitVec 16} {xs ys : List Word} :
    xs.length = imm.toNat ∧ xs = ys ↔ imm = countImm ys ∧ xs = ys ∧ countFits ys = true := by
  constructor
  · rintro ⟨h, rfl⟩
    have hlt := imm.isLt
    refine ⟨by rw [countImm, h, BitVec.ofNat_toNat, BitVec.setWidth_eq], rfl, ?_⟩
    rw [countFits, decide_eq_true_eq]
    omega
  · rintro ⟨rfl, rfl, h⟩
    exact ⟨(countImm_toNat xs h).symm, rfl⟩

/-! ### Argument words that are as many as the row fixes -/

variable {f : Frame} {w w₁ w₂ w₃ : Word}

theorem read_one_arg : f.args.length = 1 ∧ f.arg 0 = w ↔ f.args = [w] := by
  unfold Frame.arg
  rw [List.length_eq_one_iff]
  constructor
  · rintro ⟨⟨a, h⟩, rfl⟩
    simp [h]
  · intro h
    simp [h]

theorem read_two_args : f.args.length = 2 ∧ f.arg 0 = w ∧ f.arg 1 = w₁ ↔ f.args = [w, w₁] := by
  unfold Frame.arg
  rw [List.length_eq_two]
  constructor
  · rintro ⟨⟨a, b, h⟩, rfl, rfl⟩
    simp [h]
  · intro h
    simp [h]

theorem read_four_args :
    f.args.length = 4 ∧ f.arg 0 = w ∧ f.arg 1 = w₁ ∧ f.arg 2 = w₂ ∧ f.arg 3 = w₃ ↔ f.args = [w, w₁, w₂, w₃] := by
  unfold Frame.arg
  constructor
  · rintro ⟨h, rfl, rfl, rfl, rfl⟩
    obtain ⟨a, b, c, d, e⟩ : ∃ a b c d, f.args = [a, b, c, d] := by
      match f.args, h with
      | [a, b, c, d], _ => exact ⟨a, b, c, d, rfl⟩
    simp [e]
  · intro h
    simp [h]

/-! ### The rows -/

/-- The instruction read from a frame has the frame's operation code: the decoder's last branch reads nothing. -/
theorem cwOp_of_decode {i : Instr} (h : decode f = .ok i) : cwOp f.cw = cwOp (encode i).cw := by
  unfold decode at h
  dsimp only at h
  split at h
  case h_54 => cases h
  all_goals
    rename_i hop
    obtain ⟨-, -, -, rfl⟩ := legal_eq_ok_iff.mp h
    exact BitVec.eq_of_toNat_eq (by rw [hop, encode, cwOp_mkCw]; rfl)

/-- Among the frames with the operation code of `i`, the decoder reads `i` from its encoding and from no other. Each group of cases
is a shape of row; within it the checks of the decoder and the words of the encoder meet field by field. -/
theorem decode_eq_ok_iff_of_cwOp {i : Instr} (hop : cwOp f.cw = cwOp (encode i).cw) :
    decode f = .ok i ↔ encode i = f ∧ i.wellFormed = true := by
  replace hop := congrArg BitVec.toNat hop
  cases i with (
    simp only [encode, cwOp_mkCw, BitVec.reduceToNat] at hop
    rw [decode, hop]
    refine legal_eq_ok_iff.trans ?_
    simp only [argWords, sampleWords, hop, encode, mk_eq_frame_iff,
      ← BitVec.toNat_inj (x := cwOp _), BitVec.reduceToNat, Instr.wellFormed, Bool.and_eq_true, Bool.or_eq_true,
      decide_eq_true_eq, List.length_eq_zero_iff, Nat.reduceLeDiff, ← read_index, ← read_bit, ← read_order,
      ← read_timer, ← read_byte, ← read_correlate, ← read_one_arg, ← read_two_args, ← read_four_args])
  | nop | reset | getRate | phaseInv | toneStop | detReset | dataPopTxBit | v8Stop | v8GetTxcaps | v8GetRxcaps
  | v8PopTxBit | isOnHook | setOnHook => tauto
  | setRate w | phaseInc w | sine w =>
    simp only [Instr.setRate.injEq, Instr.phaseInc.injEq, Instr.sine.injEq]
    tauto
  | rdReg id n | rdMem id n =>
    simp only [Instr.rdReg.injEq, Instr.rdMem.injEq]
    tauto
  | fskSelect id | restart id | setOffHook id =>
    simp only [Instr.fskSelect.injEq, Instr.restart.injEq, Instr.setOffHook.injEq]
    tauto
  | toneTx n | fskTx n | v8Tx n | pull n =>
    simp only [Instr.toneTx.injEq, Instr.fskTx.injEq, Instr.v8Tx.injEq, Instr.pull.injEq]
    tauto
  | gzInit u n w | iqBuild u n w =>
    simp only [Instr.gzInit.injEq, Instr.iqBuild.injEq]
    tauto
  | gzPower u | frmPop u | frmReset u | fskTxch u | fskRxch u =>
    simp only [Instr.gzPower.injEq, Instr.frmPop.injEq, Instr.frmReset.injEq, Instr.fskTxch.injEq, Instr.fskRxch.injEq]
    tauto
  | correlate u q w =>
    simp only [Instr.correlate.injEq]
    tauto
  | frmCfg u v | frmLoad u v | frmPush u v =>
    simp only [Instr.frmCfg.injEq, Instr.frmLoad.injEq, Instr.frmPush.injEq]
    tauto
  | fskTxen b | dataPushRxBit b | v8PushRxBit b | serialBit b | txByte b | v8AddCap b | timerFire b =>
    simp only [Instr.fskTxen.injEq, Instr.dataPushRxBit.injEq, Instr.v8PushRxBit.injEq, Instr.serialBit.injEq,
      Instr.txByte.injEq, Instr.v8AddCap.injEq, Instr.timerFire.injEq]
    tauto
  | toneStart id n w w₁ =>
    simp only [Instr.toneStart.injEq]
    tauto
  | toneStartF w w₁ w₂ w₃ =>
    simp only [Instr.toneStartF.injEq]
    tauto
  | detCfg xs =>
    have hcount := read_count (imm := cwImm f.cw) (xs := f.args) (ys := xs)
    simp only [Instr.detCfg.injEq]
    tauto
  | gzAcc u xs | detSingle xs | detDual xs | fskRx xs | v8Rx xs | push xs =>
    have hcount := read_count (imm := cwImm f.cw) (xs := f.samples) (ys := xs)
    simp only [Instr.gzAcc.injEq, Instr.detSingle.injEq, Instr.detDual.injEq, Instr.fskRx.injEq, Instr.v8Rx.injEq,
      Instr.push.injEq]
    tauto
  | v8Start role tone =>
    have hrole := read_role (sel := cwSel f.cw) (imm := cwImm f.cw) (tone := tone) (role := role)
    simp only [Instr.v8Start.injEq]
    tauto

/-- The decoder reads an instruction from its encoding and from no other frame. -/
theorem decode_eq_ok_iff {i : Instr} : decode f = .ok i ↔ encode i = f ∧ i.wellFormed = true := by
  constructor
  · intro h
    exact (decode_eq_ok_iff_of_cwOp (cwOp_of_decode h)).mp h
  · rintro ⟨rfl, hw⟩
    exact (decode_eq_ok_iff_of_cwOp rfl).mpr ⟨rfl, hw⟩

end Sys2Proof.Proofs
end

section
/-! # The outgoing bits of a menu -/

namespace Sys2Proof.Proofs

open Sys2Proof.Machine Sys2Proof.Laws

/-! ### One bit -/

/-- The state in which bit `c` of the cyclic sequence is due, after an operation that answered `r`
(`spec/44_v8_engine.md` R277, R278). -/
def sendingAt (s : State) (c : Nat) (r : Response) : State :=
  { s with v8 := { s.v8 with cursor := BitVec.ofNat 16 (c % seqLen s) }, resp := r }

/-- What `V8_POP_TX_BIT` answers with when it takes a bit and nothing happens (`spec/44_v8_engine.md` R290). -/
def bitAnswer (b : Bool) : Response := ⟨some .ok, [bitWord b], [], []⟩

variable (s : State)

theorem one_lt_seqLen : 1 < seqLen s := by
  unfold seqLen
  omega

/-- Every place of the sequence fits the cursor. -/
theorem seqLen_lt : seqLen s < 2 ^ 16 := by
  have := s.v8.outlen.isLt
  unfold seqLen
  omega

@[simp] theorem cursor_sendingAt (c : Nat) (r : Response) :
    (sendingAt s c r).v8.cursor.toNat = c % seqLen s := by
  have hlt := Nat.mod_lt c (Nat.zero_lt_of_lt (one_lt_seqLen s))
  have hlen := seqLen_lt s
  exact Nat.mod_eq_of_lt (by omega)

/-- Taking a bit makes the next one due, and the last is followed by the first. -/
theorem v8NextBit_sendingAt (c : Nat) (r : Response) :
    v8NextBit (sendingAt s c r) = (sendingAt s (c + 1) r, seqBit s (c % seqLen s)) := by
  unfold v8NextBit
  rw [cursor_sendingAt]
  change (sendingAt s (c % seqLen s + 1) r, seqBit s (c % seqLen s)) = _
  simp only [sendingAt, Nat.mod_add_mod]

variable {s}

/-- In `SENT_CM` and `SENT_JM` a bit moves the cursor and nothing else. -/
theorem exec_v8PopTxBit_sendingAt (hs : s.v8.phase = .sentCm ∨ s.v8.phase = .sentJm) (c : Nat) (r : Response) :
    exec .v8PopTxBit (sendingAt s c r) = .next (sendingAt s (c + 1) (bitAnswer (seqBit s (c % seqLen s)))) := by
  have hpop : v8PopTxBit (sendingAt s c .empty) = v8NextBit (sendingAt s c .empty) := by
    have hphase : (sendingAt s c .empty).v8.phase = s.v8.phase := rfl
    unfold v8PopTxBit
    rcases hs with hs | hs <;> rw [hphase, hs]
  change execV8PopTxBit (sendingAt s c r) = _
  unfold execV8PopTxBit
  change answerOk (v8PopTxBit (sendingAt s c .empty)).1 [bitWord (v8PopTxBit (sendingAt s c .empty)).2] [] = _
  rw [hpop, v8NextBit_sendingAt]
  rfl

/-- Taking `n` bits answers with the next `n` bits of the sequence. -/
theorem runAll_v8PopTxBit (hs : s.v8.phase = .sentCm ∨ s.v8.phase = .sentJm) (n c : Nat) (r : Response) :
    ∃ r', runAll (List.replicate n .v8PopTxBit) (sendingAt s c r) =
      some (sendingAt s (c + n) r', (List.range' c n).map (fun j => bitAnswer (seqBit s (j % seqLen s)))) := by
  induction n generalizing c r with
  | zero => exact ⟨r, rfl⟩
  | succ n ih =>
    obtain ⟨r', hrun⟩ := ih (c + 1) (bitAnswer (seqBit s (c % seqLen s)))
    refine ⟨r', ?_⟩
    rw [List.replicate_succ, runAll, exec_v8PopTxBit_sendingAt hs]
    simp only [hrun, Option.map_some, List.range'_succ, List.map_cons, Nat.add_assoc, Nat.add_comm 1 n]
    rfl

/-! ### The whole sequence -/

variable (s)

/-- An octet between its start bit and its stop bit (`spec/30_encoding.md` R113). -/
def framed (b : Byte) : List Bool := false :: (List.range 8).map b.getLsbD ++ [true]

/-- Octet `m` of the menu, framed, from place `20 + 10 * m` on. -/
theorem map_seqBit_octet (m : Nat) :
    (List.range 10).map (fun p => seqBit s (20 + (10 * m + p))) = framed (ramRead s.v8.out m) := by
  have hbit : ∀ p, p < 10 → seqBit s (20 + (10 * m + p)) =
      if p = 0 then false else if p = 9 then true else (ramRead s.v8.out m).getLsbD (p - 1) := by
    intro p hp
    unfold seqBit
    rw [v8PreambleOnes_eq, if_neg (by omega), if_neg (by omega), show (20 + (10 * m + p) - 20) / 10 = m by omega,
      show (20 + (10 * m + p) - 20) % 10 = p by omega]
  rw [List.map_congr_left (fun p hp => hbit p (List.mem_range.mp hp))]
  rfl

/-- The framed octets of the menu, one after the other. -/
theorem map_seqBit_octets (k : Nat) :
    (List.range (10 * k)).map (fun j => seqBit s (20 + j)) =
      ((List.range k).map (ramRead s.v8.out)).flatMap framed := by
  induction k with
  | zero => rfl
  | succ k ih =>
    rw [Nat.mul_succ, List.range_add, List.map_append, ih, List.map_map, List.range_succ (n := k), List.map_append,
      List.flatMap_append]
    exact congrArg _ ((map_seqBit_octet s k).trans (List.append_nil _).symm)

/-- Ten ones and the sync pattern stand before the octets (`spec/30_encoding.md` R113). -/
theorem map_seqBit_preamble :
    (List.range 20).map (seqBit s) =
      List.replicate 10 true ++ [false, false, false, false, false, false, true, true, true, true] := rfl

/-- The sequence of one whole menu. -/
theorem map_seqBit_seqLen :
    (List.range (seqLen s)).map (seqBit s) =
      List.replicate 10 true ++ [false, false, false, false, false, false, true, true, true, true] ++
        ((List.range s.v8.outlen.toNat).map (ramRead s.v8.out)).flatMap framed := by
  rw [seqLen, List.range_add, List.map_append, List.map_map, map_seqBit_preamble]
  exact congrArg _ (map_seqBit_octets s _)

variable {s}

/-- With the cursor at the start, and after every whole sequence, only the response tells the states apart. -/
theorem sendingAt_start (hc : s.v8.cursor = 0#16) {c : Nat} (h : c % seqLen s = 0) (r : Response) :
    sendingAt s c r = { s with resp := r } := by
  rw [sendingAt, h, ← hc]

/-- From the start of the sequence, as many operations as it has bits take all of it, and the state but for the response is as
before. -/
theorem runAll_v8PopTxBit_menu (hs : s.v8.phase = .sentCm ∨ s.v8.phase = .sentJm) (hc : s.v8.cursor = 0#16)
    {bits : List Bool} (hbits : (List.range (seqLen s)).map (seqBit s) = bits) :
    ∃ t rs, runAll (List.replicate bits.length .v8PopTxBit) s = some (t, rs) ∧ rs = bits.map bitAnswer ∧
      { t with resp := s.resp } = s := by
  subst hbits
  obtain ⟨r', hrun⟩ := runAll_v8PopTxBit hs (seqLen s) 0 s.resp
  have hstart : sendingAt s 0 s.resp = s := sendingAt_start hc (Nat.zero_mod _) s.resp
  have hend : sendingAt s (0 + seqLen s) r' = { s with resp := r' } :=
    sendingAt_start hc (by rw [Nat.zero_add, Nat.mod_self]) r'
  rw [hstart, hend] at hrun
  refine ⟨{ s with resp := r' }, _, by rwa [List.length_map, List.length_range], ?_, rfl⟩
  rw [← List.range_eq_range', List.map_map]
  exact List.map_congr_left (fun j hj => by rw [Nat.mod_eq_of_lt (List.mem_range.mp hj)]; rfl)

/-- The state after the change to `SENT_CM` (`spec/44_v8_engine.md` R278), its event apart. -/
def inSentCm (s : State) : State := { s with v8 := { s.v8 with phase := .sentCm } }

/-- In `SENT_ANSAM` a bit is taken after the change to `SENT_CM`, from the start of the sequence. -/
theorem v8PopTxBit_sentAnsam (hs : s.v8.phase = .sentAnsam) (hc : s.v8.cursor = 0#16) :
    v8PopTxBit s.begin =
      v8NextBit (sendingAt (inSentCm s) 0 ⟨none, [], [], [.v8State .sentAnsam .sentCm]⟩) := by
  have hchange : v8Set .sentCm s.begin = State.emit (inSentCm s.begin) (.v8State .sentAnsam .sentCm) := by
    rw [v8Set_change s.begin (by rw [begin_v8, hs]; decide) (by decide), begin_v8, hs]
    rfl
  rw [sendingAt_start (s := inSentCm s) hc (Nat.zero_mod _)]
  simp only [v8PopTxBit, begin_v8, hs, hchange]
  rfl

theorem exec_v8PopTxBit_sentAnsam (hs : s.v8.phase = .sentAnsam) (hc : s.v8.cursor = 0#16) :
    exec .v8PopTxBit s = .next (State.answeredOk { s with v8 := { s.v8 with phase := .sentCm, cursor := 1#16 } }
      [1#32] [] [.v8State .sentAnsam .sentCm]) := by
  change execV8PopTxBit s = _
  rw [execV8PopTxBit, v8PopTxBit_sentAnsam hs hc, v8NextBit_sendingAt, sendingAt,
    Nat.mod_eq_of_lt (one_lt_seqLen (inSentCm s)), Nat.zero_mod]
  rfl

end Sys2Proof.Proofs
end

section
/-! # The obligations on the encoding and the outgoing menu -/

namespace Sys2Proof.Proofs

open Sys2Proof.Machine Sys2Proof.Laws

/-- Settles O1: the decoder reads an instruction from its encoding. -/
theorem decodeEncodeRoundTrip : Obligations.DecodeEncodeRoundTrip := by
  unfold Obligations.DecodeEncodeRoundTrip
  exact fun i hw => decode_eq_ok_iff.mpr ⟨rfl, hw⟩

/-- Settles O2: and from no other frame. -/
theorem encodeDecodeRoundTrip : Obligations.EncodeDecodeRoundTrip := by
  unfold Obligations.EncodeDecodeRoundTrip
  exact fun f i => decode_eq_ok_iff.mp

/-- Settles O4: each frame is the encoding of a well-formed instruction. -/
theorem decodedWords : Obligations.DecodedWords := by
  unfold Obligations.DecodedWords
  simp only [decode_eq_ok_iff]
  decide

/-- Settles O48: the bits are those of the cyclic sequence from its start, and a whole sequence brings the cursor back. -/
theorem v8TransmitSequence : Obligations.V8TransmitSequence := by
  unfold Obligations.V8TransmitSequence
  exact ⟨fun s hs hc => runAll_v8PopTxBit_menu hs hc (map_seqBit_seqLen s), fun s => exec_v8PopTxBit_sentAnsam⟩

end Sys2Proof.Proofs
end

section
/-! # The sine ROM and the phase (`spec/40_dsp_primitives.md` R130 to R133, `spec/20_memory.md` R74) -/

namespace Sys2Proof.Proofs

open Sys2Proof.Machine Sys2Proof.Laws

/-! ### Symmetries of the ROM -/

/-- The first half, and with it the first entry of the second: both are 0 at their start. -/
theorem sineRom_eq_sineHalf {k : Nat} (h : k ≤ 512) : sineRom k = sineHalf k := by
  rcases Nat.lt_or_eq_of_le h with hk | rfl
  · exact if_pos hk
  · rfl

/-- The second half negates the first. -/
theorem sineRom_add_half {k : Nat} (h : k < 512) : sineRom (512 + k) = - sineRom k := by
  rw [sineRom_eq_sineHalf h.le, sineRom, if_neg (by omega), Nat.add_sub_cancel_left]

/-- The first half is its own mirror image: entry 256 is its middle. -/
theorem sineHalf_mirror {k : Nat} (h : k ≤ 512) : sineHalf (512 - k) = sineHalf k := by
  unfold sineHalf
  rcases Nat.lt_trichotomy k 256 with hk | rfl | hk
  · rw [if_neg (by omega), if_pos (by omega), Nat.sub_sub_self h]
  · rfl
  · rw [if_pos (by omega), if_neg (by omega)]

theorem sineRom_mirror {k : Nat} (h : k ≤ 512) : sineRom (512 - k) = sineRom k := by
  rw [sineRom_eq_sineHalf (Nat.sub_le 512 k), sineRom_eq_sineHalf h, sineHalf_mirror h]

/-! ### The phase -/

/-- The sine of a phase is the ROM entry at its top ten bits (R132). -/
theorem sine_eq_sineRom (ph : Word) : sine ph = sineRom (ph.extractLsb' 22 10).toNat := by
  rw [BitVec.extractLsb'_toNat]
  rfl

theorem sine_eq_sineRom_div (ph : Word) : sine ph = sineRom (ph.toNat / 2 ^ 22 % 1024) := by
  rw [← Nat.shiftRight_eq_div_pow]
  rfl

/-- Half the phase domain is half the ROM (R131). -/
theorem sine_add_half (ph : Word) : sine (ph + 0x80000000#32) = - sine ph := by
  rw [sine_eq_sineRom_div, sine_eq_sineRom_div, BitVec.toNat_add, BitVec.toNat_ofNat]
  have hindex : ph.toNat / 2 ^ 22 % 1024 < 1024 := Nat.mod_lt _ (by decide)
  have hshift : (ph.toNat + 2147483648 % 2 ^ 32) % 2 ^ 32 / 2 ^ 22 % 1024 = (ph.toNat / 2 ^ 22 % 1024 + 512) % 1024 := by
    omega
  rw [hshift]
  generalize ph.toNat / 2 ^ 22 % 1024 = k at hindex
  rcases Nat.lt_or_ge k 512 with hk | hk
  · rw [Nat.mod_eq_of_lt (by omega), Nat.add_comm, sineRom_add_half hk]
  · obtain ⟨j, rfl⟩ := Nat.exists_eq_add_of_le hk
    rw [sineRom_add_half (by omega), neg_neg, show (512 + j + 512) % 1024 = j by omega]

/-- The sample rate itself is a whole turn of the phase (R130). -/
theorem phaseIncrement_add_rate (f : Nat) {fs : Nat} (h : 1 ≤ fs) :
    phaseIncrement (f + 100 * fs) fs = phaseIncrement f fs := by
  have hturn : (f + 100 * fs) * 2 ^ 32 / (100 * fs) = f * 2 ^ 32 / (100 * fs) + 2 ^ 32 := by
    rw [Nat.add_mul, Nat.add_mul_div_left _ _ (by omega)]
  unfold phaseIncrement
  rw [hturn]
  apply BitVec.eq_of_toNat_eq
  rw [BitVec.toNat_ofNat, BitVec.toNat_ofNat, Nat.add_mod_right]

theorem phaseIncrement_toNat (f fs : Nat) : (phaseIncrement f fs).toNat = f * 2 ^ 32 / (100 * fs) % 2 ^ 32 :=
  BitVec.toNat_ofNat _ _

end Sys2Proof.Proofs
end

section
/-! # Goertzel units (`spec/40_dsp_primitives.md` R135 to R140) -/

namespace Sys2Proof.Proofs

open Sys2Proof.Machine Sys2Proof.Laws

/-! ### Samples into a unit -/

/-- The samples `xs` into a unit, one after the other (R137). -/
def accumulate (xs : List Word) (g : Goertzel) : Goertzel := xs.foldl (fun h x => h.step x.toInt) g

/-- How many of the samples `xs` are left of a unit's block (R138). -/
def samplesTaken (xs : List Word) (g : Goertzel) : Nat := min xs.length (g.n.toNat - g.cnt.toNat)

@[simp] theorem accumulate_nil (g : Goertzel) : accumulate [] g = g := rfl

theorem accumulate_cons (x : Word) (xs : List Word) (g : Goertzel) :
    accumulate (x :: xs) g = accumulate xs (g.step x.toInt) := rfl

@[simp] theorem accumulate_n (xs : List Word) (g : Goertzel) : (accumulate xs g).n = g.n := by
  induction xs generalizing g with
  | nil => rfl
  | cons x xs ih => rw [accumulate_cons, ih, goertzel_step_n]

/-- The count does not pass its 16 bits before the end of the block. -/
theorem step_cnt_toNat {g : Goertzel} (h : g.cnt.toNat < g.n.toNat) (x : Int) :
    (g.step x).cnt.toNat = g.cnt.toNat + 1 := by
  rw [goertzel_step_cnt]
  bv_omega

theorem accumulate_cnt_toNat (xs : List Word) {g : Goertzel} (h : xs.length ≤ g.n.toNat - g.cnt.toNat) :
    (accumulate xs g).cnt.toNat = g.cnt.toNat + xs.length := by
  induction xs generalizing g with
  | nil => rfl
  | cons x xs ih =>
    rw [List.length_cons] at h ⊢
    have hcnt := step_cnt_toNat (g := g) (by omega) x.toInt
    rw [accumulate_cons, ih (by rw [goertzel_step_n]; omega), hcnt]
    omega

theorem length_take_samplesTaken (xs : List Word) (g : Goertzel) :
    (xs.take (samplesTaken xs g)).length = samplesTaken xs g :=
  List.length_take_of_le (Nat.min_le_left _ _)

theorem samplesTaken_complete {g : Goertzel} (h : g.n.toNat ≤ g.cnt.toNat) (xs : List Word) : samplesTaken xs g = 0 := by
  rw [samplesTaken, Nat.sub_eq_zero_of_le h, Nat.min_zero]

/-- A sample that is taken leaves one fewer of the block. -/
theorem samplesTaken_cons {g : Goertzel} (h : g.cnt.toNat < g.n.toNat) (x : Word) (xs : List Word) :
    samplesTaken (x :: xs) g = samplesTaken xs (g.step x.toInt) + 1 := by
  simp only [samplesTaken, step_cnt_toNat h, goertzel_step_n, List.length_cons]
  omega

/-- A block is complete after the samples taken when they reach its size. -/
theorem done_accumulate (xs : List Word) (g : Goertzel) :
    (accumulate (xs.take (samplesTaken xs g)) g).done = decide (g.n.toNat ≤ g.cnt.toNat + samplesTaken xs g) := by
  have hlen := length_take_samplesTaken xs g
  rw [Goertzel.done, accumulate_n, accumulate_cnt_toNat _ (hlen.le.trans (Nat.min_le_right _ _)), hlen]

/-- All that `gz_acc` does: the samples left of the block go into the unit, and their number is told (R138). -/
theorem gzAcc_eq {u : Nat} (hu : u < 16) (xs : List Word) (s : State) :
    gzAcc u xs s =
      (s.setGz u (accumulate (xs.take (samplesTaken xs (s.gzAt u))) (s.gzAt u)), samplesTaken xs (s.gzAt u)) := by
  induction xs generalizing s with
  | nil => simp [gzAcc, samplesTaken, setGz_gzAt]
  | cons x xs ih =>
    unfold gzAcc
    split
    case isTrue h =>
      have hunit : (goertzelStep u (sampleInt x) s).gzAt u = (s.gzAt u).step x.toInt := by
        rw [gzAt_goertzelStep s u u _ hu, if_pos rfl, sampleInt]
      rw [ih, hunit, samplesTaken_cons h, List.take_succ_cons, accumulate_cons, goertzelStep, setGz_setGz]
    case isFalse h =>
      rw [samplesTaken_complete (Nat.le_of_not_lt h), List.take_zero, accumulate_nil, setGz_gzAt]

/-! ### The operations -/

theorem exec_gzAcc (u : Fin 16) (xs : List Word) (s : State) :
    exec (.gzAcc u xs) s = .next (State.answeredOk
      { s with gz := s.gz.set u (accumulate (xs.take (samplesTaken xs s.gz[u])) s.gz[u]) u.isLt }
      [bitWord (decide (s.gz[u].n.toNat ≤ s.gz[u].cnt.toNat + samplesTaken xs s.gz[u])),
        BitVec.ofNat 32 (samplesTaken xs s.gz[u])] [] []) := by
  have hunit : s.begin.gzAt u.val = s.gz[u] := gzAt_fin s u
  change execGzAcc u xs s = _
  rw [execGzAcc, gzAcc_eq u.isLt]
  dsimp only
  rw [gzAt_setGz, if_pos ⟨rfl, u.isLt⟩, hunit, done_accumulate, setGz_fin]
  rfl

/-- A unit set up for a frequency, a sample rate and a block size (R136). -/
def unitSetUp (f fs : Nat) (n : BitVec 16) : Goertzel :=
  ⟨BitVec.ofInt 32 (goertzelCoeff f fs n.toNat), n, 0#16, 0#64, 0#64⟩

theorem gzInit_eq (u f : Nat) (n : BitVec 16) (s : State) :
    gzInit u f n.toNat s = s.setGz u (unitSetUp f s.srate.toNat n) := by
  rw [gzInit, unitSetUp, BitVec.ofNat_toNat, BitVec.setWidth_eq]

theorem exec_gzInit_zero (u : Fin 16) (f : Word) (s : State) :
    exec (.gzInit u 0#16 f) s = .next (s.answered .fail [] [] []) := rfl

theorem exec_gzInit (u : Fin 16) {n : BitVec 16} (hn : n ≠ 0#16) (f : Word) (s : State) :
    exec (.gzInit u n f) s = .next (State.answeredOk
      { s with gz := s.gz.set u (unitSetUp f.toNat s.srate.toNat n) u.isLt }
      [(unitSetUp f.toNat s.srate.toNat n).coeff] [] []) := by
  change execGzInit u n f s = _
  rw [execGzInit, if_neg hn]
  dsimp only
  rw [gzInit_eq, gzAt_setGz, if_pos ⟨rfl, u.isLt⟩, setGz_fin]
  rfl

/-- A value already wrapped to 64 bits is the same word. -/
theorem ofInt_wrapS64 (v : Int) : BitVec.ofInt 64 (wrapS64 v) = BitVec.ofInt 64 v := BitVec.ofInt_toInt

theorem exec_gzPower (u : Fin 16) (s : State) :
    exec (.gzPower u) s = .next (State.answeredOk
      (if s.gz[u].done then { s with gz := s.gz.set u s.gz[u].clear u.isLt } else s)
      [lowWord (BitVec.ofInt 64 s.gz[u].value), highWord (BitVec.ofInt 64 s.gz[u].value)] [] []) := by
  have hunit : s.begin.gzAt u.val = s.gz[u] := gzAt_fin s u
  change execGzPower u s = _
  rw [execGzPower, gzPowerClear, hunit, gzAt_fin, setGz_fin]
  split <;> rfl

end Sys2Proof.Proofs
end

section
/-! # I/Q tables and correlation (`spec/40_dsp_primitives.md` R141 to R143) -/

namespace Sys2Proof.Proofs

open Sys2Proof.Machine Sys2Proof.Laws

/-! ### Building a table -/

/-- A memory after its first `len` words are filled by a function of their address. -/
theorem ramRead_ramFill_range {w : Nat} (m : Ram w) (len : Nat) (g : Nat → BitVec w) (a : Nat) :
    ramRead (ramFill m 0 ((List.range len).map g)) a = if a < len then g a else ramRead m a := by
  rw [ramRead_ramFill, List.length_map, List.length_range]
  by_cases h : a < len
  · rw [if_pos ⟨Nat.zero_le a, by omega⟩, if_pos h]
    simp [h]
  · rw [if_neg (by omega), if_neg h]

theorem build_len (x : IqTable) (f fs : Nat) (len : BitVec 16) : (x.build f fs len.toNat).len = len := by
  rw [IqTable.build, BitVec.ofNat_toNat, BitVec.setWidth_eq]

/-- The I component of a built table (R141). -/
theorem ramRead_build_i (x : IqTable) (f fs len n : Nat) :
    ramRead (x.build f fs len).i n =
      if n < len then BitVec.ofInt 16 (cosine (iqPhase (phaseIncrement f fs) n)) else ramRead x.i n :=
  ramRead_ramFill_range x.i len _ n

/-- The Q component of a built table (R141). -/
theorem ramRead_build_q (x : IqTable) (f fs len n : Nat) :
    ramRead (x.build f fs len).q n =
      if n < len then BitVec.ofInt 16 (sine (iqPhase (phaseIncrement f fs) n)) else ramRead x.q n :=
  ramRead_ramFill_range x.q len _ n

theorem exec_iqBuild_fail (t : Fin 4) {len : BitVec 16} (h : len.toNat = 0 ∨ 512 < len.toNat) (f : Word) (s : State) :
    exec (.iqBuild t len f) s = .next (s.answered .fail [] [] []) := by
  change execIqBuild t len f s = _
  rw [execIqBuild, ringSize_eq, if_pos h, answerFail_eq]

theorem exec_iqBuild (t : Fin 4) {len : BitVec 16} (h : 1 ≤ len.toNat ∧ len.toNat ≤ 512) (f : Word) (s : State) :
    exec (.iqBuild t len f) s = .next (State.answeredOk
      { s with iq := s.iq.set t (s.iq[t].build f.toNat s.srate.toNat len.toNat) t.isLt } [] [] []) := by
  have htable : s.begin.iqAt t.val = s.iq[t] := iqAt_fin s t
  change execIqBuild t len f s = _
  rw [execIqBuild, ringSize_eq, if_neg (by omega), buildIq, htable, setIq_fin]
  rfl

/-! ### Correlating -/

theorem foldl_range_add (g : Nat → Int) (n : Nat) :
    (List.range n).foldl (fun acc i => acc + g i) 0 = ∑ i ∈ Finset.range n, g i := by
  induction n with
  | zero => rfl
  | succ n ih => rw [List.range_succ, List.foldl_append, ih, Finset.sum_range_succ]; rfl

/-- The word of a correlation: the dot product, scaled down once (R143). -/
theorem ofInt_circularCorrelate (ref ring : Nat → Int) (len start : Nat) :
    BitVec.ofInt 64 (circularCorrelate ref len ring start) =
      BitVec.ofInt 64 ((∑ i ∈ Finset.range len, ref i * ring ((start + i) % 512)) / 2 ^ 14) := by
  rw [circularCorrelate, ofInt_wrapS64, foldl_range_add]
  rfl

theorem exec_correlate (t : Fin 4) (q : Component) (start : Word) (s : State) :
    exec (.correlate t q start) s =
      let v := BitVec.ofInt 64 (circularCorrelate (s.iq[t].ref q) s.iq[t].len.toNat (s.chanAt (t.val / 2)).ringAt
        (start.toNat % 512))
      .next (s.answeredOk [lowWord v, highWord v] [] []) := by
  rw [← iqAt_fin]
  rfl

end Sys2Proof.Proofs
end

section
/-! # The obligations on the DSP primitives -/

namespace Sys2Proof.Proofs

open Sys2Proof.Machine Sys2Proof.Laws

/-- The decoder reads a well-formed instruction from its fields and words. -/
theorem reads_of_encode {op sel : BitVec 8} {imm : BitVec 16} {args samples : List Word} {i : Instr}
    (h : encode i = ⟨mkCw op sel imm, args, samples⟩) (hw : i.wellFormed = true) : reads op sel imm args samples i :=
  decode_eq_ok_iff.mpr ⟨h, hw⟩

/-- A unit number beyond the bank is a malformed field (`spec/30_encoding.md` R93). -/
theorem decode_gzInit_illegal {sel : BitVec 8} (h : 15 < sel.toNat) (n : BitVec 16) (f : Word) :
    decode ⟨mkCw 0x13#8 sel n, [f], []⟩ = .error .illegalField := by
  have hop : (0x13#8).toNat = 0x13 := rfl
  simp only [decode, cwOp_mkCw, cwSel_mkCw, hop, Frame.legal]
  rw [if_neg (by rw [decide_eq_true_eq]; omega)]

/-- Settles O22: symmetry of the ROM, and the phase as an index into it. -/
theorem phaseArithmetic : Obligations.PhaseArithmetic := by
  unfold Obligations.PhaseArithmetic
  refine ⟨fun f fs h => phaseIncrement_add_rate f h, sine_add_half, fun ph => sineRom_bounds _, fun ph ph' h => ?_,
    fun k => sineRom_mirror (by omega), fun k => sineRom_add_half k.isLt⟩
  rw [sine_eq_sineRom, sine_eq_sineRom, h]

/-- Settles O25, by induction on the samples: the count of a unit does not wrap before its block is complete. -/
theorem goertzelAccumulate : Obligations.GoertzelAccumulate := by
  unfold Obligations.GoertzelAccumulate
  exact ⟨fun u xs h => reads_of_encode rfl (by rw [Instr.wellFormed, countFits, decide_eq_true h]), fun g x => rfl,
    exec_gzAcc⟩

/-- Settles O27: the accumulation is a sum, and scaling it is the one rounding. -/
theorem correlateResult : Obligations.CorrelateResult := by
  unfold Obligations.CorrelateResult
  intro t q start s
  cases q <;> exact ⟨reads_of_encode rfl rfl, by rw [exec_correlate, ofInt_circularCorrelate]; rfl⟩

/-- Settles O23: each operation reads its operand and the sample rate only; the ROM index is the phase's top ten bits. -/
theorem phaseResults : Obligations.PhaseResults := by
  unfold Obligations.PhaseResults
  refine ⟨fun f => ⟨reads_of_encode rfl rfl, fun s => rfl⟩, ⟨reads_of_encode rfl rfl, fun s => rfl⟩,
    fun ph => ⟨reads_of_encode rfl rfl, fun s => ?_⟩⟩
  rw [← sine_eq_sineRom_div]
  rfl

/-- Settles O24: a block size of 0 is refused, a complete block is cleared. -/
theorem goertzelInitPower : Obligations.GoertzelInitPower := by
  unfold Obligations.GoertzelInitPower
  refine ⟨fun u n f => reads_of_encode rfl rfl, fun sel n f h => decode_gzInit_illegal h n f,
    fun u => reads_of_encode rfl rfl, fun u n f s => ?_, fun u s => ?_⟩
  · dsimp only
    split
    case isTrue hn => rw [hn, exec_gzInit_zero]
    case isFalse hn => exact exec_gzInit u hn f s
  · rw [exec_gzPower, Goertzel.value, ofInt_wrapS64]
    simp only [Goertzel.done, decide_eq_true_eq]
    rfl

/-- Settles O26: the table after a build, word by word. -/
theorem iqBuild : Obligations.IqBuild := by
  unfold Obligations.IqBuild
  refine fun t len f s => ⟨reads_of_encode rfl rfl, fun h => exec_iqBuild_fail t h f s, fun h =>
    ⟨_, exec_iqBuild t h f s, build_len .., fun n => ?_⟩⟩
  rw [ramRead_build_i, ramRead_build_q, cosine, iqPhase, phaseIncrement_toNat, quarter_eq]
  exact ⟨rfl, rfl⟩

end Sys2Proof.Proofs
end

section
/-! # The frame codec (`spec/41_frame_codec.md`) -/

namespace Sys2Proof.Proofs

open Sys2Proof.Machine Sys2Proof.Laws

/-! ### The other bits into the parser -/

/-- An idle parser ignores mark (R164). -/
theorem codec_push_mark {c : Codec} (h : c.pst = .idle) : c.push true = (c, none) := by
  simp [Codec.push, h]

/-- A frame whose stop bit is 0 is dropped (R164, R165). -/
theorem codec_push_badStop {c : Codec} (h : c.pst = .stop) : c.push false = ({ c with pst := .idle }, none) := by
  simp [Codec.push, h]

/-- The accumulator with a data bit at the place of its time (R164). -/
def accumulated (c : Codec) (b : Bool) : Byte :=
  if b then c.pacc ||| (1#8 <<< dataBitPos c.order c.pk.toNat) else c.pacc

theorem or_shiftLeft_bit (c : Codec) (b : Bool) :
    c.pacc ||| ((if b then 1#8 else 0#8) <<< dataBitPos c.order c.pk.toNat) = accumulated c b := by
  cases b <;> simp [accumulated]

/-- The eighth data bit ends the data (R164). -/
theorem codec_push_lastData {c : Codec} (b : Bool) (h : c.pst = .data) (hk : c.pk = 7#3) :
    c.push b = ({ c with pacc := accumulated c b, pst := .stop }, none) := by
  rw [codec_push_data b h, or_shiftLeft_bit, if_pos hk, if_pos hk]

/-- Any other data bit is counted (R164). -/
theorem codec_push_earlierData {c : Codec} (b : Bool) (h : c.pst = .data) (hk : c.pk ≠ 7#3) :
    c.push b = ({ c with pacc := accumulated c b, pk := c.pk + 1#3 }, none) := by
  rw [codec_push_data b h, or_shiftLeft_bit, if_neg hk, if_neg hk, h]

/-! ### The operations -/

theorem exec_frmCfg (k : Fin 3) (o : BitOrder) (s : State) :
    exec (.frmCfg k o) s =
      .next (State.answeredOk { s with codec := s.codec.set k { s.codec[k] with order := o } k.isLt } [] [] []) := by
  change execFrmCfg k o s = _
  rw [execFrmCfg, codecAt_fin, setCodec_fin]
  rfl

/-- The state after `FRM_LOAD` on an idle builder (R162). -/
def loaded (k : Fin 3) (b : Byte) (s : State) : State :=
  (s.setCodec k { s.codecAt k with bframe := frameBits b (s.codecAt k).order, bn := 10#4 }).answeredOk [] [] []

theorem exec_frmLoad {k : Fin 3} {s : State} (h : (s.codecAt k).bn = 0#4) (b : Byte) :
    exec (.frmLoad k b) s = .next (loaded k b s) := by
  have hload := frmLoad_eq s.begin k b
  rw [codecAt_congr (t := s.begin) (s := s) rfl, if_pos h] at hload
  change execFrmLoad k b s = _
  rw [execFrmLoad, hload]
  rfl

theorem exec_frmLoad_busy {k : Fin 3} {s : State} (h : (s.codecAt k).bn ≠ 0#4) (b : Byte) :
    exec (.frmLoad k b) s = .next (s.answered .fail [] [] []) := by
  have hload := frmLoad_eq s.begin k b
  rw [codecAt_congr (t := s.begin) (s := s) rfl, if_neg h] at hload
  change execFrmLoad k b s = _
  rw [execFrmLoad, hload, answerFail_eq]

/-- The state after `FRM_POP` (R169). -/
def popped (k : Fin 3) (s : State) : State :=
  (s.setCodec k (s.codecAt k).pop.1).answeredOk [bitWord (s.codecAt k).pop.2] [] []

theorem exec_frmPop (k : Fin 3) (s : State) : exec (.frmPop k) s = .next (popped k s) := rfl

/-- The result words for what the parser gives: a flag, and the byte or 0 (R170). -/
def parsedWords : Option Byte → List Word
  | none => [0#32, 0#32]
  | some v => [1#32, v.setWidth 32]

/-- The state after `FRM_PUSH` (R170). -/
def pushed (k : Fin 3) (b : Bool) (s : State) : State :=
  (s.setCodec k ((s.codecAt k).push b).1).answeredOk (parsedWords ((s.codecAt k).push b).2) [] []

theorem exec_frmPush (k : Fin 3) (b : Bool) (s : State) : exec (.frmPush k b) s = .next (pushed k b s) := by
  change execFrmPush k b s = _
  rw [execFrmPush, frmPush, codecAt_congr (t := s.begin) (s := s) rfl, pushed]
  dsimp only
  cases ((s.codecAt k).push b).2 <;> rfl

/-- `FRM_PUSH` by what the parser makes of the bit. -/
theorem exec_frmPush_of {k : Fin 3} {b : Bool} {s : State} {c : Codec} {v : Option Byte}
    (h : s.codec[k].push b = (c, v)) :
    exec (.frmPush k b) s =
      .next (State.answeredOk { s with codec := s.codec.set k c k.isLt } (parsedWords v) [] []) := by
  rw [exec_frmPush, pushed, codecAt_fin, h, setCodec_fin]

theorem exec_frmPush_mark {k : Fin 3} {s : State} (h : s.codec[k].pst = .idle) :
    exec (.frmPush k true) s = .next (s.answeredOk [0#32, 0#32] [] []) := by
  rw [exec_frmPush, pushed, codecAt_fin, codec_push_mark h, ← codecAt_fin, setCodec_codecAt]
  rfl

theorem exec_frmReset (k : Fin 3) (s : State) :
    exec (.frmReset k) s =
      .next (State.answeredOk { s with codec := s.codec.set k s.codec[k].clear k.isLt } [] [] []) := by
  change execFrmReset k s = _
  rw [execFrmReset, frmReset, codecAt_fin, setCodec_fin]
  rfl

/-! ### A frame read in the other order -/

/-- The byte that a parser of order `o'` takes from a frame of `b` in order `o` (R172). -/
def received (b : Byte) (o o' : BitOrder) : Byte := if o = o' then b else b.reverse

/-- The i-th bit in time order, counted in either order. -/
theorem received_dataBit (b : Byte) (o o' : BitOrder) {i : Nat} (h : i < 8) :
    (received b o o').getLsbD (dataBitPos o' i) = b.getLsbD (dataBitPos o i) := by
  have hrev : ∀ j, j < 8 → b.reverse.getLsbD j = b.getLsbD (7 - j) := fun j hj => by
    rw [BitVec.getLsbD_reverse, BitVec.getMsbD, decide_eq_true hj, Bool.true_and]
  cases o <;> cases o'
  case lsbFirst.lsbFirst => rfl
  case lsbFirst.msbFirst => exact (hrev (7 - i) (by omega)).trans (congrArg _ (by rw [dataBitPos]; omega))
  case msbFirst.lsbFirst => exact hrev i h
  case msbFirst.msbFirst => rfl

/-- Frames with the same data bits are the same: start and stop bit do not depend on the byte. -/
theorem frameBits_congr {b b' : Byte} {o o' : BitOrder}
    (h : ∀ i, i < 8 → b.getLsbD (dataBitPos o i) = b'.getLsbD (dataBitPos o' i)) : frameBits b o = frameBits b' o' := by
  refine BitVec.eq_of_getLsbD_eq (fun j hj => ?_)
  obtain rfl | rfl | ⟨i, hi, rfl⟩ : j = 0 ∨ j = 9 ∨ ∃ i, i < 8 ∧ j = 8 - i := by
    by_cases hdata : 1 ≤ j ∧ j ≤ 8
    · exact .inr (.inr ⟨8 - j, by omega, by omega⟩)
    · omega
  · rw [(frameBits_ends b o).2, (frameBits_ends b' o').2]
  · rw [(frameBits_ends b o).1, (frameBits_ends b' o').1]
  · rw [frameBits_data b o hi, frameBits_data b' o' hi, h i hi]

/-- A frame of `b` in one order is a frame of the received byte in the other. -/
theorem frameBits_received (b : Byte) (o o' : BitOrder) : frameBits b o = frameBits (received b o o') o' :=
  frameBits_congr (fun _ hi => (received_dataBit b o o' hi).symm)

end Sys2Proof.Proofs
end

section
/-! # A frame from one codec's builder to another's parser (`spec/41_frame_codec.md` R172)

Builder and parser of a codec share only the order, which neither half writes. So the builder of one codec and the parser of
another stand together as one codec, and the loop through both is the loop `relayBit` through that one. -/

namespace Sys2Proof.Proofs

open Sys2Proof.Machine Sys2Proof.Laws

/-- The codec with the builder of `d`, and the order and the parser of `e`. -/
def joined (d e : Codec) : Codec := { e with bframe := d.bframe, bn := d.bn }

theorem joined_self (c : Codec) : joined c c = c := rfl

theorem joined_pop (d e : Codec) : (joined d e).pop = (joined d.pop.1 e, d.pop.2) := by
  by_cases h : d.bn = 0#4
  · rw [codec_pop_idle h, codec_pop_idle (c := joined d e) h]
  · rw [codec_pop_busy h, codec_pop_busy (c := joined d e) h]
    rfl

theorem joined_push (d e : Codec) (b : Bool) : (joined d e).push b = (joined d (e.push b).1, (e.push b).2) := by
  cases hp : e.pst with
  | idle =>
    cases b with
    | true => rw [codec_push_mark hp, codec_push_mark (c := joined d e) hp]
    | false => rw [codec_push_start hp, codec_push_start (c := joined d e) hp]; rfl
  | data => rw [codec_push_data b hp, codec_push_data (c := joined d e) b hp]; rfl
  | stop =>
    cases b with
    | true => rw [codec_push_stop hp, codec_push_stop (c := joined d e) hp]; rfl
    | false => rw [codec_push_badStop hp, codec_push_badStop (c := joined d e) hp]; rfl

theorem relayBit_joined (d e : Codec) :
    relayBit (joined d e) = (joined d.pop.1 (e.push d.pop.2).1, (e.push d.pop.2).2) := by
  rw [relayBit, joined_pop, joined_push]

variable {k j : Fin 3} {b : Byte}

/-- The way of a frame: the builder of codec `k` and the parser of codec `j`. -/
def path (k j : Fin 3) (s : State) : Codec := joined (s.codecAt k) (s.codecAt j)

/-- The state after one bit from builder `k` to parser `j`. -/
def passed (k j : Fin 3) (s : State) : State := pushed j (s.codecAt k).pop.2 (popped k s)

theorem codecAt_popped (k j : Fin 3) (s : State) :
    (popped k s).codecAt j = if k = j then (s.codecAt k).pop.1 else s.codecAt j := by
  rw [popped, codecAt_congr (answeredOk_codec ..), codecAt_setCodec]
  simp [Fin.ext_iff]

theorem codecAt_pushed (k j : Fin 3) (x : Bool) (s : State) :
    (pushed j x s).codecAt k = if j = k then ((s.codecAt j).push x).1 else s.codecAt k := by
  rw [pushed, codecAt_congr (answeredOk_codec ..), codecAt_setCodec]
  simp [Fin.ext_iff]

/-- One bit from builder to parser is one bit through the codec of the two. -/
theorem path_passed (k j : Fin 3) (s : State) :
    path k j (passed k j s) = (relayBit (path k j s)).1 ∧
      (passed k j s).resp.results = parsedWords (relayBit (path k j s)).2 := by
  by_cases h : k = j
  · subst h
    have hpop : (popped k s).codecAt k = (s.codecAt k).pop.1 := by rw [codecAt_popped, if_pos rfl]
    rw [path, path, joined_self, joined_self, passed, codecAt_pushed, if_pos rfl, hpop, relayBit, pushed, hpop]
    exact ⟨rfl, rfl⟩
  · have hk : (popped k s).codecAt k = (s.codecAt k).pop.1 := by rw [codecAt_popped, if_pos rfl]
    have hj : (popped k s).codecAt j = s.codecAt j := by rw [codecAt_popped, if_neg h]
    rw [path, path, relayBit_joined, passed, codecAt_pushed, codecAt_pushed, if_neg (Ne.symm h), if_pos rfl, hk, hj,
      pushed, hj]
    exact ⟨rfl, rfl⟩

theorem relayBits_frame_succ (k j : Fin 3) (n : Nat) (s : State) :
    relayBits (.frmPop k) (.frmPush j) (n + 1) s =
      (relayBits (.frmPop k) (.frmPush j) n (passed k j s)).map (fun r => (r.1, (passed k j s).resp :: r.2)) := by
  have hbit : decide ((popped k s).resp.results = [1#32]) = (s.codecAt k).pop.2 := decide_ok_results s _
  rw [relayBits]
  simp only [exec_frmPop, exec_frmPush, hbit]
  rfl

/-- From every state with this codec on the way from `k` to `j`, `n` bits yield the answers `ws` and leave both halves idle. -/
def Yields (k j : Fin 3) (n : Nat) (c : Codec) (ws : List (List Word)) : Prop :=
  ∀ s : State, path k j s = c →
    ∃ t rs, relayBits (.frmPop k) (.frmPush j) n s = some (t, rs) ∧ rs.map Response.results = ws ∧
      (path k j t).bn = 0#4 ∧ (path k j t).pst = .idle

theorem yields_nil {c : Codec} (hn : c.bn = 0#4) (hp : c.pst = .idle) : Yields k j 0 c [] := by
  rintro s rfl
  exact ⟨s, [], rfl, rfl, hn, hp⟩

/-- The answer to this bit stands before the answers to the rest. -/
theorem Yields.step {n : Nat} {c : Codec} {ws : List (List Word)} (h : Yields k j n (relayBit c).1 ws) :
    Yields k j (n + 1) c (parsedWords (relayBit c).2 :: ws) := by
  rintro s rfl
  obtain ⟨hpath, hres⟩ := path_passed k j s
  obtain ⟨t, rs, hrun, hws, hidle⟩ := h (passed k j s) hpath
  refine ⟨t, (passed k j s).resp :: rs, by rw [relayBits_frame_succ, hrun]; rfl, ?_, hidle⟩
  rw [List.map_cons, hres, hws]

/-- The last `n` data bits of a frame answer no byte, its stop bit answers the byte. -/
theorem yields_dataBits (n : Nat) (hn : n ≤ 8) {c : Codec} (h : Relaying b (8 - n) c) :
    Yields k j (n + 1) c (List.replicate n (parsedWords none) ++ [parsedWords (some b)]) := by
  induction n generalizing c with
  | zero =>
    obtain ⟨hbn, hpst, hbyte⟩ := h.stop
    have hstep := (yields_nil (k := k) (j := j) hbn hpst).step
    rwa [hbyte] at hstep
  | succ n ih =>
    obtain ⟨hnext, hnone⟩ := h.next (by omega)
    rw [show 8 - (n + 1) + 1 = 8 - n by omega] at hnext
    have hstep := (ih (by omega) hnext).step
    rwa [hnone] at hstep

/-- The whole frame: the start bit answers no byte either. -/
theorem yields_frame {c : Codec} (hp : c.pst = .idle) (hf : c.bframe = frameBits b c.order) (hn : c.bn = 10#4) :
    Yields k j 10 c (List.replicate 9 (parsedWords none) ++ [parsedWords (some b)]) := by
  obtain ⟨hstart, hnone⟩ := relaying_start hp hf hn
  have hstep := (yields_dataBits (k := k) (j := j) 8 le_rfl hstart).step
  rwa [hnone] at hstep

/-- A loaded byte stands in front of the parser as a frame of the byte that it takes for it. -/
theorem path_loaded (k j : Fin 3) (b : Byte) (s : State) :
    (path k j (loaded k b s)).pst = (s.codecAt j).pst ∧ (path k j (loaded k b s)).order = (s.codecAt j).order ∧
      (path k j (loaded k b s)).bframe = frameBits b (s.codecAt k).order ∧ (path k j (loaded k b s)).bn = 10#4 := by
  rw [path, loaded, codecAt_congr (answeredOk_codec ..), codecAt_congr (answeredOk_codec ..), codecAt_setCodec,
    codecAt_setCodec, if_pos ⟨rfl, k.isLt⟩]
  by_cases h : k = j
  · subst h
    rw [if_pos ⟨rfl, k.isLt⟩]
    exact ⟨rfl, rfl, rfl, rfl⟩
  · rw [if_neg (fun h' => h (Fin.ext h'.1))]
    exact ⟨rfl, rfl, rfl, rfl⟩

/-- A byte loaded into builder `k` comes out of parser `j` on the tenth bit. -/
theorem yields_loaded (b : Byte) {s : State} (hp : (s.codecAt j).pst = .idle) :
    Yields k j 10 (path k j (loaded k b s)) (List.replicate 9 (parsedWords none) ++
      [parsedWords (some (received b (s.codecAt k).order (s.codecAt j).order))]) := by
  obtain ⟨hpst, horder, hframe, hbn⟩ := path_loaded k j b s
  exact yields_frame (hpst.trans hp) (by rw [hframe, horder]; exact frameBits_received ..) hbn

end Sys2Proof.Proofs
end

section
/-! # The obligations on the frame codec -/

namespace Sys2Proof.Proofs

open Sys2Proof.Machine Sys2Proof.Laws

/-- Settles O30: builder and parser stand together as one codec, bit by bit through the frame. -/
theorem frameRoundTrip : Obligations.FrameRoundTrip := by
  unfold Obligations.FrameRoundTrip
  refine ⟨fun k j b s hbn hpst => ?_, fun j s => exec_frmPush_mark⟩
  simp only [← codecAt_fin] at hbn hpst ⊢
  obtain ⟨t, rs, hrun, hws, hidle⟩ := yields_loaded (k := k) b hpst (loaded k b s) rfl
  exact ⟨loaded k b s, t, rs, exec_frmLoad hbn b, hrun, hws, hidle⟩

/-- Settles O28: the frame's bits are those of `frame_bits`, each at its place. -/
theorem frameConfigLoad : Obligations.FrameConfigLoad := by
  unfold Obligations.FrameConfigLoad
  refine fun k s => ⟨reads_of_encode rfl rfl, reads_of_encode rfl rfl, fun b => reads_of_encode rfl rfl,
    fun o => exec_frmCfg k o s, fun b h => exec_frmLoad_busy (by rwa [codecAt_fin]) b, fun b h => ?_⟩
  obtain ⟨hstart, hstop⟩ := frameBits_ends b s.codec[k].order
  refine ⟨frameBits b s.codec[k].order, ?_, hstart, hstop, fun i => ?_⟩
  · rw [exec_frmLoad (by rwa [codecAt_fin]), loaded, codecAt_fin, setCodec_fin]
  · rw [frameBits_data b _ i.isLt]
    cases s.codec[k].order <;> rfl

/-- Settles O29: a bit out by whether the builder is idle, a bit in by the state of the parser. -/
theorem framePopPushReset : Obligations.FramePopPushReset := by
  unfold Obligations.FramePopPushReset
  intro k s
  refine ⟨reads_of_encode rfl rfl, reads_of_encode rfl rfl, reads_of_encode rfl rfl, reads_of_encode rfl rfl,
    fun h => ?_, fun h => ?_, exec_frmPush_mark, fun h => exec_frmPush_of (codec_push_start h), fun b h => ?_,
    fun h => exec_frmPush_of (codec_push_stop h), fun h => exec_frmPush_of (codec_push_badStop h), exec_frmReset k s⟩
  · rw [exec_frmPop, popped, codecAt_fin, codec_pop_idle h, ← codecAt_fin, setCodec_codecAt]
    rfl
  · rw [exec_frmPop, popped, codecAt_fin, codec_pop_busy h, setCodec_fin]
  · dsimp only
    split
    case isTrue hk => exact exec_frmPush_of (codec_push_lastData b h hk)
    case isFalse hk => exact exec_frmPush_of (codec_push_earlierData b h hk)

end Sys2Proof.Proofs
end

section
/-! # The tone transmitter (`spec/42_tone_engine.md` R181 to R193) -/

namespace Sys2Proof.Proofs

open Sys2Proof.Machine Sys2Proof.Laws

/-! ### One sample -/

/-- The transmitter's registers after a sample: phases, reversal counter, budget (R187). -/
def toneNext (t : ToneTx) : ToneTx := t.advance.reverse.spend

@[simp] theorem toneNext_active (t : ToneTx) : (toneNext t).active = t.active := by simp [toneNext, ToneTx.advance]
@[simp] theorem toneNext_id (t : ToneTx) : (toneNext t).id = t.id := by simp [toneNext, ToneTx.advance]
@[simp] theorem toneNext_finite (t : ToneTx) : (toneNext t).finite = t.finite := by simp [toneNext, ToneTx.advance]
@[simp] theorem toneNext_succ (t : ToneTx) : (toneNext t).succ = t.succ := by simp [toneNext, ToneTx.advance]
@[simp] theorem toneNext_gain (t : ToneTx) : (toneNext t).gain = t.gain := by simp [toneNext, ToneTx.advance]

theorem toneNext_left (t : ToneTx) : (toneNext t).left = if t.finite then t.left - 1#32 else t.left := by
  have hkeep : t.advance.reverse.finite = t.finite ∧ t.advance.reverse.left = t.left := by simp [ToneTx.advance]
  obtain ⟨hfinite, hleft⟩ := hkeep
  rw [toneNext, ToneTx.spend, hfinite, ← hleft]
  split <;> rfl

/-- The jump of both carriers in a sample: half the domain where the reversal counter runs out (R214). -/
def phaseJump (t : ToneTx) : Word := if t.revInt ≠ 0#32 ∧ t.revLeft = 1#32 then 0x80000000#32 else 0#32

theorem reverse_eq (t : ToneTx) :
    t.reverse =
      { t with
        ph1 := t.ph1 + phaseJump t, ph2 := t.ph2 + phaseJump t,
        revLeft := if t.revInt = 0#32 then t.revLeft else if t.revLeft = 1#32 then t.revInt else t.revLeft - 1#32 } := by
  have hlast : t.revLeft - 1#32 = 0#32 ↔ t.revLeft = 1#32 := sub_eq_zero
  rw [ToneTx.reverse, half_eq]
  by_cases hint : t.revInt = 0#32
  · simp only [phaseJump, hint, ne_eq, not_true_eq_false, false_and, if_false, if_true, BitVec.add_zero]
    rw [← hint]
  · by_cases hl : t.revLeft = 1#32 <;> simp [phaseJump, hint, hl, hlast]

/-- A sample in the terms of the rules (R187). -/
theorem toneNext_eq (t : ToneTx) :
    toneNext t =
      { t with
        ph1 := t.ph1 + t.inc1 + phaseJump t, ph2 := t.ph2 + t.inc2 + phaseJump t, amPh := t.amPh + t.amInc,
        revLeft := if t.revInt = 0#32 then t.revLeft else if t.revLeft = 1#32 then t.revInt else t.revLeft - 1#32,
        left := if t.finite then t.left - 1#32 else t.left } := by
  rw [toneNext, reverse_eq, ToneTx.spend]
  cases hfinite : t.finite <;> simp [ToneTx.advance, phaseJump, hfinite]

/-- The tone goes on after `n` more samples. -/
def lasts (n : Nat) (t : ToneTx) : Prop := t.finite = false ∨ n < t.left.toNat

theorem lasts_mono {m n : Nat} {t : ToneTx} (h : lasts n t) (hmn : m ≤ n) : lasts m t := h.imp_right hmn.trans_lt

theorem lasts_toneNext {n : Nat} {t : ToneTx} (h : lasts (n + 1) t) : lasts n (toneNext t) := by
  rw [lasts, toneNext_finite, toneNext_left]
  rcases h with hf | hn
  · exact .inl hf
  · cases hf : t.finite
    · exact .inl rfl
    · refine .inr ?_
      rw [if_pos rfl]
      bv_omega

/-- A sample that leaves budget. -/
theorem toneSample_running {s : State} (ha : s.tone.active = true)
    (hl : ¬ ((toneNext s.tone).finite = true ∧ (toneNext s.tone).left = 0#32)) :
    toneSample s = ({ s with tone := toneNext s.tone }, word32 s.tone.value) :=
  toneSample_inside s ha hl

/-- The sample that exhausts the budget. -/
theorem toneSample_last {s : State} (ha : s.tone.active = true) (hf : s.tone.finite = true) (hl : s.tone.left = 1#32) :
    toneSample s = (toneSettle { s with tone := toneNext s.tone }, word32 s.tone.value) := by
  have hspent : (toneNext s.tone).finite = true ∧ (toneNext s.tone).left = 0#32 := by
    rw [toneNext_finite, toneNext_left, hf, hl]
    exact ⟨rfl, rfl⟩
  unfold toneSample
  rw [if_neg (by simp [ha])]
  exact congrArg (·, _) (if_pos hspent)

theorem not_spent_of_lasts {t : ToneTx} (h : lasts 1 t) : ¬ ((toneNext t).finite = true ∧ (toneNext t).left = 0#32) := by
  rintro ⟨hf, hl⟩
  rcases lasts_toneNext h with hf' | hpos
  · rw [hf] at hf'
    contradiction
  · rw [hl] at hpos
    contradiction

/-! ### A block of samples -/

/-- The sample values of `n` samples from the registers `t` on. -/
def toneWave (t : ToneTx) (n : Nat) : List Word := (List.range n).map (fun j => word32 (toneNext^[j] t).value)

@[simp] theorem toneWave_length (t : ToneTx) (n : Nat) : (toneWave t n).length = n := by simp [toneWave]

theorem toneWave_succ (t : ToneTx) (n : Nat) : toneWave t (n + 1) = word32 t.value :: toneWave (toneNext t) n := by
  simp [toneWave, List.range_succ_eq_map, Function.comp_def]

/-- A register that one sample keeps, any number of samples keeps. -/
theorem iterate_toneNext_keeps {β : Type} (g : ToneTx → β) (h : ∀ t, g (toneNext t) = g t) (n : Nat) (t : ToneTx) :
    g (toneNext^[n] t) = g t := by
  induction n generalizing t with
  | zero => rfl
  | succ n ih => rw [Function.iterate_succ_apply, ih, h]

/-- The budget after `n` samples of a finite tone. -/
theorem iterate_toneNext_left (n : Nat) {t : ToneTx} (hf : t.finite = true) (hn : n ≤ t.left.toNat) :
    (toneNext^[n] t).left.toNat = t.left.toNat - n := by
  induction n generalizing t with
  | zero => rfl
  | succ n ih =>
    have hleft : (toneNext t).left.toNat = t.left.toNat - 1 := by
      rw [toneNext_left, hf, if_pos rfl]
      bv_omega
    rw [Function.iterate_succ_apply, ih (by rw [toneNext_finite, hf]) (by omega), hleft]
    omega

/-- The budget register of an indefinite tone stays (R189). -/
theorem iterate_toneNext_left_indefinite (n : Nat) {t : ToneTx} (hf : t.finite = false) :
    (toneNext^[n] t).left = t.left := by
  induction n generalizing t with
  | zero => rfl
  | succ n ih =>
    rw [Function.iterate_succ_apply, ih (by rw [toneNext_finite, hf]), toneNext_left, hf]
    rfl

/-- Samples after all of which the tone goes on. -/
theorem synth_running {n : Nat} {s : State} (ha : s.tone.active = true) (hl : lasts n s.tone) :
    synth toneSample n s = ({ s with tone := toneNext^[n] s.tone }, toneWave s.tone n) := by
  induction n generalizing s with
  | zero => rfl
  | succ n ih =>
    have hsample := toneSample_running ha (not_spent_of_lasts (lasts_mono hl (Nat.le_add_left 1 n)))
    have hrest := ih (s := { s with tone := toneNext s.tone }) ((toneNext_active _).trans ha) (lasts_toneNext hl)
    rw [synth, hsample]
    dsimp only
    rw [hrest, toneWave_succ]
    rfl

/-- Samples up to the one that exhausts the budget. -/
theorem synth_to_end {k : Nat} {s : State} (ha : s.tone.active = true) (hf : s.tone.finite = true)
    (hk : s.tone.left.toNat = k + 1) :
    synth toneSample (k + 1) s = (toneSettle { s with tone := toneNext^[k + 1] s.tone }, toneWave s.tone (k + 1)) := by
  induction k generalizing s with
  | zero =>
    rw [synth, toneSample_last ha hf (BitVec.eq_of_toNat_eq hk)]
    rfl
  | succ k ih =>
    have hsample := toneSample_running ha (not_spent_of_lasts (.inr (by omega)))
    have hleft : (toneNext s.tone).left.toNat = k + 1 := by
      rw [toneNext_left, hf, if_pos rfl]
      bv_omega
    have hrest := ih (s := { s with tone := toneNext s.tone }) ((toneNext_active _).trans ha)
      ((toneNext_finite _).trans hf) hleft
    rw [synth, hsample]
    dsimp only
    rw [hrest, toneWave_succ s.tone (k + 1)]
    rfl

theorem exec_toneTx (count : BitVec 16) (s : State) :
    exec (.toneTx count) s = answerOk (synth toneSample count.toNat s.begin).1 [] (synth toneSample count.toNat s.begin).2 :=
  rfl

/-- `TONE_TX` of a tone that goes on after it. -/
theorem exec_toneTx_running {count : BitVec 16} {s : State} (ha : s.tone.active = true) (hl : lasts count.toNat s.tone) :
    exec (.toneTx count) s =
      .next (State.answeredOk { s with tone := toneNext^[count.toNat] s.tone } [] (toneWave s.tone count.toNat) []) := by
  rw [exec_toneTx, synth_running (s := s.begin) ha hl]
  rfl

/-! ### The end of a tone -/

/-- A tone that is not the answer tone of a session ends with its event alone (R185). -/
theorem toneEnd_outside {s : State} (h : s.v8.phase ≠ .txAns) (t : ToneTx) :
    toneEnd { s with tone := t } = State.emit { s with tone := { t with active := false } } (.toneDone t.id) :=
  v8ToneDone_outside _ h

/-- The registers after the last of `left` samples are those of an exhausted segment. -/
theorem spent_iterate {t : ToneTx} (ha : t.active = true) (hf : t.finite = true) :
    (toneNext^[t.left.toNat] t).spent = true := by
  have hleft : (toneNext^[t.left.toNat] t).left = 0#32 :=
    BitVec.eq_of_toNat_eq ((iterate_toneNext_left t.left.toNat hf le_rfl).trans (Nat.sub_self _))
  rw [ToneTx.spent, iterate_toneNext_keeps ToneTx.active toneNext_active, iterate_toneNext_keeps ToneTx.finite toneNext_finite,
    ha, hf, hleft]
  rfl

/-- Samples past the end of a tone that is not the answer tone of a session: zeros behind the last. -/
theorem synth_past_end {count : Nat} {s : State} (ha : s.tone.active = true) (hf : s.tone.finite = true)
    (hpos : s.tone.left ≠ 0#32) (hsucc : s.tone.succ = 0#8) (hp : s.v8.phase ≠ .txAns) (hc : s.tone.left.toNat ≤ count) :
    synth toneSample count s =
      (State.emit { s with tone := { toneNext^[s.tone.left.toNat] s.tone with active := false } } (.toneDone s.tone.id),
        toneWave s.tone s.tone.left.toNat ++ List.replicate (count - s.tone.left.toNat) 0#32) := by
  obtain ⟨k, hk⟩ : ∃ k, s.tone.left.toNat = k + 1 := Nat.exists_eq_succ_of_ne_zero (fun h => hpos (BitVec.eq_of_toNat_eq h))
  obtain ⟨m, rfl⟩ := Nat.exists_eq_add_of_le hc
  have hspent := spent_iterate ha hf
  have hend : toneSettle { s with tone := toneNext^[k + 1] s.tone } =
      State.emit { s with tone := { toneNext^[k + 1] s.tone with active := false } } (.toneDone s.tone.id) := by
    have hkeep : (toneNext^[k + 1] s.tone).succ = s.tone.succ := iterate_toneNext_keeps ToneTx.succ toneNext_succ _ _
    have hid : (toneNext^[k + 1] s.tone).id = s.tone.id := iterate_toneNext_keeps ToneTx.id toneNext_id _ _
    rw [toneSettle_end _ (hk ▸ hspent) (hkeep.trans hsucc), toneEnd_outside hp, ← hid]
  rw [Nat.add_sub_cancel_left, hk, synth_add, synth_to_end ha hf hk, hend]
  dsimp only
  rw [synth_idle (toneSample_off _ rfl)]

/-- `TONE_TX` of a tone that ends in it, outside the answer tone of a session (R186). -/
theorem exec_toneTx_ending {count : BitVec 16} {s : State} (ha : s.tone.active = true) (hf : s.tone.finite = true)
    (hpos : s.tone.left ≠ 0#32) (hsucc : s.tone.succ = 0#8) (hp : s.v8.phase ≠ .txAns)
    (hc : s.tone.left.toNat ≤ count.toNat) :
    exec (.toneTx count) s = .next (State.answeredOk
      { s with tone := { toneNext^[s.tone.left.toNat] s.tone with active := false } } []
      (toneWave s.tone s.tone.left.toNat ++ List.replicate (count.toNat - s.tone.left.toNat) 0#32) [.toneDone s.tone.id]) := by
  rw [exec_toneTx, synth_past_end (s := s.begin) ha hf hpos hsucc hp hc]
  rfl

/-! ### The end of the answer tone (`spec/44_v8_engine.md` R276) -/

/-- The state with other tone registers and another response. -/
def withTone (t : ToneTx) (r : Response) (s : State) : State := { s with tone := t, resp := r }

section
variable (t : ToneTx) (r : Response) (s : State)

theorem setIq_withTone (k : Nat) (x : IqTable) : (withTone t r s).setIq k x = withTone t r (s.setIq k x) := rfl
theorem setCodec_withTone (k : Nat) (c : Codec) : (withTone t r s).setCodec k c = withTone t r (s.setCodec k c) := rfl
theorem setChan_withTone (c : Nat) (x : FskChannel) : (withTone t r s).setChan c x = withTone t r (s.setChan c x) := rfl
theorem iqAt_withTone (k : Nat) : (withTone t r s).iqAt k = s.iqAt k := rfl
theorem codecAt_withTone (k : Nat) : (withTone t r s).codecAt k = s.codecAt k := rfl
theorem chanAt_withTone (c : Nat) : (withTone t r s).chanAt c = s.chanAt c := rfl
theorem srate_withTone : (withTone t r s).srate = s.srate := rfl
theorem txqClear_withTone : txqClear (withTone t r s) = withTone t r (txqClear s) := rfl

theorem clearIqLen_withTone (k : Nat) : clearIqLen (withTone t r s) k = withTone t r (clearIqLen s k) := by
  simp only [clearIqLen, setIq_withTone, iqAt_withTone]

theorem frmReset_withTone (k : Nat) : frmReset k (withTone t r s) = withTone t r (frmReset k s) := by
  simp only [frmReset, setCodec_withTone, codecAt_withTone]

theorem buildIq_withTone (k f len : Nat) : buildIq k f len (withTone t r s) = withTone t r (buildIq k f len s) := by
  simp only [buildIq, setIq_withTone, iqAt_withTone, srate_withTone]

theorem fskSetChannel_withTone (d : SchemeDesc) (c : Nat) :
    fskSetChannel d (withTone t r s) c = withTone t r (fskSetChannel d s c) := by
  simp only [fskSetChannel, setChan_withTone, chanAt_withTone, srate_withTone, buildIq_withTone]

theorem fskClear_withTone : fskClear (withTone t r s) = withTone t r (fskClear s) := by
  have hfold : ∀ u : State, (List.range Config.iqTables).foldl clearIqLen (withTone t r u) =
      withTone t r ((List.range Config.iqTables).foldl clearIqLen u) :=
    fun u => List.foldl_hom (withTone t r) (fun u k => clearIqLen_withTone t r u k)
  simp only [fskClear, ← txqClear_withTone, ← frmReset_withTone, ← hfold]
  rfl

end

/-- A selection reads and writes neither the tone registers nor the response. -/
theorem fskSelect_withTone (id : Byte) (t : ToneTx) (r : Response) (s : State) :
    fskSelect id (withTone t r s) = withTone t r (fskSelect id s) := by
  have hfold : ∀ (d : SchemeDesc) (u : State), (List.range d.nch).foldl (fskSetChannel d) (withTone t r u) =
      withTone t r ((List.range d.nch).foldl (fskSetChannel d) u) :=
    fun d u => List.foldl_hom (withTone t r) (fun u c => fskSetChannel_withTone t r u d c)
  unfold fskSelect
  dsimp only
  rw [fskClear_withTone, hfold]
  split <;> rfl

/-- A selection writes what `State.withFskOf` takes over and nothing else. -/
theorem fskSelect_eq_withFskOf (id : Byte) (s : State) : fskSelect id s = s.withFskOf (fskSelect id s) := by
  have hkeep := fskSelect_keeps s id
  generalize fskSelect id s = d at hkeep ⊢
  cases d
  cases s
  simp_all [State.withFskOf]

/-- The outgoing-menu buffer with the Call Menu of the transmit set in it. -/
def callMenuOut (s : State) : Ram 8 := ramFill s.v8.out 0 (menuOctets (txItems s))

theorem callMenuOut_storedFrom (s : State) : storedFrom s.v8.out (callMenuOut s) (menuOctets (txItems s)) := by
  intro a
  rw [callMenuOut, ramRead_ramFill, Nat.zero_add, Nat.sub_zero]
  simp only [Nat.zero_le, true_and]

/-- The end of the answer tone: its event, then the engine made ready and the phase change. -/
theorem toneEnd_answer {s : State} (h : s.v8.phase = .txAns) (t : ToneTx) (ys : List Word) :
    State.ok (toneEnd { s.begin with tone := t }) [] ys =
      State.answeredOk (s.answerToneDone (State.ok (fskSelect 1#8 s.begin) [] []) { t with active := false }
        (callMenuOut s)) [] ys
        [.toneDone t.id, .v8State .txAns .sentAnsam] := by
  let u := withTone { t with active := false } ⟨none, [], [], [.toneDone t.id]⟩ s.begin
  have hphase : u.v8.phase = .txAns := h
  have hready : v8PrepareCm u = v8LoadMenu (txItems s) (fskSetDirections 1#1 0#1 true
      (withTone { t with active := false } ⟨none, [], [], [.toneDone t.id]⟩
        (s.begin.withFskOf (fskSelect 1#8 s.begin)))) := by
    rw [v8PrepareCm_eq, v8Scheme_eq, fskSelect_withTone, ← fskSelect_eq_withFskOf]
    rfl
  have hdone : toneEnd { s.begin with tone := t } = v8Set .sentAnsam (v8PrepareCm u) := if_neg (not_not.mpr hphase)
  have hold : (v8PrepareCm u).v8.phase = .txAns := by simp [hphase]
  rw [hdone, v8Set_change _ (by rw [hold]; decide) (by decide), hold, hready]
  simp only [State.emit, v8LoadMenu, menuEncode, fskSetDirections, withTone, State.withFskOf, State.answerToneDone, callMenuOut,
    State.begin, State.ok, State.answeredOk, State.answered, List.cons_append, List.nil_append]

theorem exec_fskSelect_usable {id : Byte} {s : State} (h : schemeUsable s.srate id.toNat = true) :
    exec (.fskSelect id) s = .next (State.ok (fskSelect id s.begin) [] []) := by
  change execFskSelect id s = _
  rw [execFskSelect, if_neg (by simp [h])]
  rfl

end Sys2Proof.Proofs
end

section
/-! # Starting a tone, and the parts of a chain (`spec/42_tone_engine.md` R181 to R185) -/

namespace Sys2Proof.Proofs

open Sys2Proof.Machine Sys2Proof.Laws

/-! ### The registers a start loads -/

theorem budget_eq (t : ToneTx) (b : Option Word) : t.budget b = { t with finite := b.isSome, left := b.getD 0#32 } := by
  cases b <;> rfl

/-- Which durations make a finite tone (R181). -/
theorem totalBudget_isSome (srate : Word) (d : ToneDesc) (total : Word) :
    (totalBudget srate d total).isSome = if total = 0#32 then decide (d.playMs ≠ 0) else decide (total ≠ 0xFFFFFFFF#32) := by
  unfold totalBudget Config.indef
  split
  · split <;> simp [*]
  · split <;> simp [*]

/-- The sample budget a duration stands for (R181). -/
theorem totalBudget_getD (srate : Word) (d : ToneDesc) (total : Word) :
    (totalBudget srate d total).getD 0#32 =
      if (totalBudget srate d total).isSome = false then 0#32
      else if total = 0#32 then msToSamples srate d.playMs else total := by
  unfold totalBudget
  split
  · split <;> simp
  · split <;> simp [*]

/-- The registers of `TONE_START_F` in the terms of the rule (R183). -/
theorem toneFreqRegs_eq (srate f1 f2 total gain : Word) :
    toneFreqRegs srate f1 f2 total gain =
      { ToneTx.reset with
        active := true, inc1 := phaseIncrement f1.toNat srate.toNat,
        inc2 := if f2 = 0#32 then 0#32 else phaseIncrement f2.toNat srate.toNat, has2 := decide (f2 ≠ 0#32), gain := gain,
        finite := !decide (total = 0xFFFFFFFF#32), left := if total = 0xFFFFFFFF#32 then 0#32 else total } := by
  rw [toneFreqRegs, budget_eq, Config.indef]
  by_cases h : total = 0xFFFFFFFF#32 <;> simp [h]

/-- A tone with a budget, or without one by its duration, is not exhausted. -/
theorem not_spent_of_budget {t : ToneTx} (h : t.finite = false ∨ t.left ≠ 0#32) : t.spent = false := by
  rcases h with h | h <;> simp [ToneTx.spent, h]

/-- `TONE_START` answers `OK` where R358 has no cause of `FAIL`. -/
theorem exec_toneStart {id : Byte} {so : BitVec 16} {total gain : Word} {s : State}
    (h : failCause (.toneStart id so total gain) s = false) :
    exec (.toneStart id so total gain) s = answerOk (toneStart id total gain so s.begin) [] [] := by
  have hok : (toneValid id.toNat && successorOk so) = true := by
    change (!toneValid id.toNat || !successorOk so) = false at h
    simpa using h
  change execToneStart id so total gain s = _
  rw [execToneStart, if_pos hok]

/-! ### The chain of successors -/

/-- A tone with no successor needs one turn. -/
theorem toneSettleLoop_last (fuel : Nat) {s : State} (h : s.tone.succ = 0#8) :
    toneSettleLoop (fuel + 1) s = toneSettleLoop 1 s := by
  simp [toneSettleLoop, h]

/-- Two bounds that agree on the successor agree on the tone before it. -/
theorem toneSettleLoop_congr {m n : Nat} {s : State}
    (h : toneSettleLoop m (toneLoad s.tone.succ 0#32 s.tone.gain 0xFFFF#16 s) =
      toneSettleLoop n (toneLoad s.tone.succ 0#32 s.tone.gain 0xFFFF#16 s)) :
    toneSettleLoop (m + 1) s = toneSettleLoop (n + 1) s := by
  simp only [toneSettleLoop, h]

theorem toneLoad_succ (id : Byte) (total gain : Word) (s : State) :
    (toneLoad id total gain 0xFFFF#16 s).tone.succ = (toneDesc id.toNat).succ := toneLoadRegs_succ ..

/-- A tone of the catalog needs two turns at most: its successor has none (R180). -/
theorem toneSettleLoop_catalog (fuel : Nat) (id : Byte) (gain : Word) (s : State) :
    toneSettleLoop (fuel + 2) (toneLoad id 0#32 gain 0xFFFF#16 s) =
      toneSettleLoop 2 (toneLoad id 0#32 gain 0xFFFF#16 s) := by
  have hload := toneLoad_succ id 0#32 gain s
  rcases toneDesc_succ id.toNat with h | h
  · rw [toneSettleLoop_last (fuel + 1) (hload.trans h), toneSettleLoop_last 1 (hload.trans h)]
  · refine toneSettleLoop_congr (m := fuel + 1) (n := 1) ?_
    rw [hload, h]
    exact toneSettleLoop_last fuel (toneLoad_succ ..)

/-- The successor is started as `TONE_START` does, with its own duration and successor and the same gain (R185). -/
theorem toneSettle_succ {s : State} (h : s.tone.spent = true) (hs : s.tone.succ ≠ 0#8) :
    toneSettle s = toneStart s.tone.succ 0#32 s.tone.gain 0xFFFF#16 s := by
  have hturn : toneSettle s = toneSettleLoop 33 (toneLoad s.tone.succ 0#32 s.tone.gain 0xFFFF#16 s) := by
    rw [toneSettle, toneSettleLoop, if_pos h, if_pos hs]
  rw [hturn, toneStart, toneSettle, toneSettleLoop_catalog 31, toneSettleLoop_catalog 32]

/-! ### Sample values -/

/-- The value of a sample in the terms of the rule (R187). -/
theorem toneValue_eq (t : ToneTx) :
    t.value =
      (let v := sine t.ph1 + (if t.has2 then sine t.ph2 else 0)
       let env : Int := (t.amMid.toNat : Int) + ((t.amHalf.toNat : Int) * sine t.amPh) / 2 ^ 14
       (if t.amInc = 0#32 then v else (v * env) / 2 ^ 14) * (t.gain.toNat : Int) / 2 ^ 14) := by
  simp only [ToneTx.value, asr, frac_eq, ne_eq, ite_not]

/-- Samples without modulation and reversal: only the carriers' phases move. -/
theorem iterate_toneNext_plain (n : Nat) {t : ToneTx} (hf : t.finite = false) (ham : t.amInc = 0#32)
    (hrev : t.revInt = 0#32) :
    toneNext^[n] t =
      { t with ph1 := t.ph1 + BitVec.ofNat 32 n * t.inc1, ph2 := t.ph2 + BitVec.ofNat 32 n * t.inc2 } := by
  have hphase : ∀ (ph inc : Word) (n : Nat),
      ph + BitVec.ofNat 32 n * inc + inc = ph + BitVec.ofNat 32 (n + 1) * inc := fun ph inc n => by
    rw [BitVec.ofNat_add, BitVec.add_mul, BitVec.one_mul, BitVec.add_assoc]
  induction n with
  | zero => simp
  | succ n ih =>
    rw [Function.iterate_succ_apply', ih, toneNext_eq]
    simp [phaseJump, hf, ham, hrev, hphase]

theorem toneValue_plain {t : ToneTx} (ham : t.amInc = 0#32) :
    t.value = (sine t.ph1 + (if t.has2 then sine t.ph2 else 0)) * (t.gain.toNat : Int) / 2 ^ 14 := by
  rw [toneValue_eq]
  exact congrArg (· * (t.gain.toNat : Int) / 2 ^ 14) (if_pos ham)

/-! ### `TONE_TX 1` -/

theorem exec_toneTx_one (s : State) : exec (.toneTx 1#16) s = answerOk (toneSample s.begin).1 [] [(toneSample s.begin).2] := rfl

/-- One sample that leaves budget. -/
theorem exec_toneTx_one_running {s : State} (ha : s.tone.active = true) (hl : s.tone.finite = false ∨ s.tone.left ≠ 1#32) :
    exec (.toneTx 1#16) s = .next (State.answeredOk { s with tone := toneNext s.tone } [] [word32 s.tone.value] []) := by
  have hrun : ¬ ((toneNext s.tone).finite = true ∧ (toneNext s.tone).left = 0#32) := by
    rw [toneNext_finite, toneNext_left]
    rintro ⟨hf, hl'⟩
    rw [if_pos hf] at hl'
    exact hl.elim (fun h => by rw [h] at hf; contradiction) (fun h => h (sub_eq_zero.mp hl'))
  rw [exec_toneTx_one, toneSample_running (s := s.begin) ha hrun]
  rfl

section
variable {s : State} (ha : s.tone.active = true) (hf : s.tone.finite = true) (hl : s.tone.left = 1#32)
include ha hf hl

/-- The sample that exhausts the budget: what `tone_settle` makes of the registers after it. -/
theorem exec_toneTx_one_last :
    exec (.toneTx 1#16) s = answerOk (toneSettle { s.begin with tone := toneNext s.tone }) [] [word32 s.tone.value] := by
  rw [exec_toneTx_one, toneSample_last (s := s.begin) ha hf hl]
  rfl

theorem spent_toneNext : (toneNext s.tone).spent = true := by
  simp [ToneTx.spent, toneNext_left, ha, hf, hl]

/-- The last sample of a tone outside the answer tone of a session. -/
theorem exec_toneTx_one_end (hs : s.tone.succ = 0#8) (hp : s.v8.phase ≠ .txAns) :
    exec (.toneTx 1#16) s = .next (State.answeredOk { s with tone := { toneNext s.tone with active := false } } []
      [word32 s.tone.value] [.toneDone s.tone.id]) := by
  rw [exec_toneTx_one_last ha hf hl,
    toneSettle_end { s.begin with tone := toneNext s.tone } (spent_toneNext ha hf hl) ((toneNext_succ _).trans hs),
    toneEnd_outside (s := s.begin) hp, ← toneNext_id s.tone]
  rfl

/-- The last sample of the answer tone of a session. -/
theorem exec_toneTx_one_answer (hs : s.tone.succ = 0#8) (hp : s.v8.phase = .txAns) :
    exec (.toneTx 1#16) s = .next (State.answeredOk
      (s.answerToneDone (State.ok (fskSelect 1#8 s.begin) [] []) { toneNext s.tone with active := false } (callMenuOut s)) []
      [word32 s.tone.value] [.toneDone s.tone.id, .v8State .txAns .sentAnsam]) := by
  rw [exec_toneTx_one_last ha hf hl,
    toneSettle_end { s.begin with tone := toneNext s.tone } (spent_toneNext ha hf hl) ((toneNext_succ _).trans hs),
    answerOk, toneEnd_answer hp, ← toneNext_id s.tone]

/-- The last sample of a tone with a successor. -/
theorem exec_toneTx_one_succ (hs : s.tone.succ ≠ 0#8) :
    exec (.toneTx 1#16) s =
      answerOk (toneStart s.tone.succ 0#32 s.tone.gain 0xFFFF#16 s.begin) [] [word32 s.tone.value] := by
  rw [exec_toneTx_one_last ha hf hl,
    toneSettle_succ (s := { s.begin with tone := toneNext s.tone }) (spent_toneNext ha hf hl) ((toneNext_succ _).symm ▸ hs)]
  dsimp only
  rw [toneNext_succ, toneNext_gain]
  rfl

end

end Sys2Proof.Proofs
end

section
/-! # The obligations on the tone transmitter -/

namespace Sys2Proof.Proofs

open Sys2Proof.Machine Sys2Proof.Laws

/-- Settles O31: the budget of the descriptor or of the operand is not exhausted, so the load stands. -/
theorem toneStartRegisters : Obligations.ToneStartRegisters := by
  unfold Obligations.ToneStartRegisters
  intro id so total gain s
  dsimp only
  intro hvalid hbudget
  have hisSome := totalBudget_isSome s.srate (toneDesc id.toNat) total
  have hgetD := totalBudget_getD s.srate (toneDesc id.toNat) total
  rw [hisSome] at hgetD
  have hunspent : (toneLoad id total gain so s.begin).tone.spent = false := by
    refine not_spent_of_budget ?_
    rw [toneLoad_tone, toneLoadRegs, budget_eq]
    simpa only [begin_srate, hisSome, hgetD, msToSamples] using hbudget
  rw [exec_toneStart hvalid, toneStart, toneSettle_unspent _ hunspent, toneLoad, toneLoadRegs, budget_eq]
  simp only [begin_srate, hisSome, hgetD, ne_eq, ite_not]
  rfl

/-- Settles O32: a tone of no samples is exhausted at once and has no successor. -/
theorem toneStartFRegisters : Obligations.ToneStartFRegisters := by
  unfold Obligations.ToneStartFRegisters
  intro f1 f2 total gain s
  simp only [decide_eq_true_eq]
  have hstart : exec (.toneStartF f1 f2 total gain) s =
      answerOk (toneSettle { s.begin with tone := toneFreqRegs s.srate f1 f2 total gain }) [] [] := rfl
  have hspent : (toneFreqRegs s.srate f1 f2 0#32 gain).spent = true := rfl
  refine ⟨fun h => ?_, fun h hp => ?_, fun h hp husable => ?_⟩
  · have hunspent : (toneFreqRegs s.srate f1 f2 total gain).spent = false := by
      refine not_spent_of_budget ?_
      rw [toneFreqRegs_eq]
      by_cases hi : total = 0xFFFFFFFF#32 <;> simp [hi, h]
    rw [hstart, toneSettle_unspent _ hunspent, toneFreqRegs_eq]
    rfl
  · subst h
    rw [hstart, toneSettle_end _ hspent rfl, toneEnd_outside (s := s.begin) hp, toneFreqRegs_eq]
    rfl
  · subst h
    refine ⟨_, callMenuOut s, exec_fskSelect_usable husable, callMenuOut_storedFrom s, ?_⟩
    rw [hstart, toneSettle_end _ hspent rfl, answerOk, toneEnd_answer hp, toneFreqRegs_eq]
    rfl

/-- Settles O33: the budget falls by one each sample; the tone ends with the sample that exhausts it. -/
theorem toneFiniteLength : Obligations.ToneFiniteLength := by
  unfold Obligations.ToneFiniteLength
  intro count s ha hf hpos hsucc hp
  by_cases hc : count.toNat < s.tone.left.toNat
  · refine ⟨_, _, toneWave_length s.tone _, fun _ => ⟨exec_toneTx_running ha (.inr hc), ?_, ?_, ?_⟩,
      fun h => absurd hc (not_lt.mpr h)⟩
    · exact (iterate_toneNext_keeps ToneTx.active toneNext_active _ _).trans ha
    · exact (iterate_toneNext_keeps ToneTx.finite toneNext_finite _ _).trans hf
    · exact iterate_toneNext_left _ hf hc.le
  · have hc' := Nat.le_of_not_lt hc
    refine ⟨_, _, ?_, fun h => absurd h hc, fun _ => ⟨exec_toneTx_ending ha hf hpos hsucc hp hc', rfl, ?_, ?_⟩⟩
    · rw [List.length_append, toneWave_length, List.length_replicate]
      omega
    · exact iterate_toneNext_keeps ToneTx.id toneNext_id _ _
    · exact List.drop_left' (toneWave_length ..)

/-- Settles O34: no sample of an indefinite tone touches its budget. -/
theorem toneIndefiniteStop : Obligations.ToneIndefiniteStop := by
  unfold Obligations.ToneIndefiniteStop
  refine ⟨fun count => reads_of_encode rfl rfl, reads_of_encode rfl rfl, fun count s ha hf => ?_, fun count s ha => ?_,
    fun s => rfl⟩
  · refine ⟨_, _, toneWave_length s.tone _, exec_toneTx_running ha (.inl hf), ?_, ?_, ?_⟩
    · exact (iterate_toneNext_keeps ToneTx.active toneNext_active _ _).trans ha
    · exact (iterate_toneNext_keeps ToneTx.finite toneNext_finite _ _).trans hf
    · exact iterate_toneNext_left_indefinite _ hf
  · rw [exec_toneTx, synth_idle (toneSample_off s.begin ha)]
    rfl

/-- Settles O35: a sample moves the registers by `toneNext`; the one that exhausts the budget settles the tone. -/
theorem tonePlainSamples : Obligations.TonePlainSamples := by
  unfold Obligations.TonePlainSamples
  refine ⟨fun s ha => ?_, fun count s ha hf ham hrev => ?_⟩
  · intro t v env w y jump t'
    have hnext : t' = toneNext s.tone := (toneNext_eq s.tone).symm
    have hvalue : y = word32 s.tone.value := congrArg word32 (toneValue_eq s.tone).symm
    rw [hnext, hvalue]
    refine ⟨exec_toneTx_one_running ha, exec_toneTx_one_end ha, fun hf hl hs hp husable => ?_, fun hf hl hs hv => ?_⟩
    · exact ⟨_, callMenuOut s, exec_fskSelect_usable husable, callMenuOut_storedFrom s,
        exec_toneTx_one_answer ha hf hl hs hp⟩
    · have hstart : failCause (.toneStart s.tone.succ 0xFFFF#16 0#32 s.tone.gain) s = false := by
        simpa [failCause] using hv
      exact ⟨_, exec_toneStart hstart, exec_toneTx_one_succ ha hf hl hs⟩
  · dsimp only
    have hwave : toneWave s.tone count.toNat = (List.range count.toNat).map (fun j => BitVec.ofInt 32
        ((sine (s.tone.ph1 + BitVec.ofNat 32 j * s.tone.inc1) +
          (if s.tone.has2 then sine (s.tone.ph2 + BitVec.ofNat 32 j * s.tone.inc2) else 0)) *
            (s.tone.gain.toNat : Int) / 2 ^ 14)) := by
      refine List.map_congr_left (fun j _ => ?_)
      rw [iterate_toneNext_plain j hf ham hrev]
      exact congrArg word32 (toneValue_plain ham)
    rw [exec_toneTx_running ha (.inl hf), iterate_toneNext_plain _ hf ham hrev, hwave]

end Sys2Proof.Proofs
end

section
/-! # Groups of Goertzel units, and the classifier's samples (`spec/42_tone_engine.md` R200 to R206) -/

namespace Sys2Proof.Proofs

open Sys2Proof.Machine Sys2Proof.Laws

/-! ### Operations that write the bank alone -/

/-- `t` is `s` with another Goertzel bank. -/
def SameButBank (s t : State) : Prop := t = { s with gz := t.gz }

theorem SameButBank.refl (s : State) : SameButBank s s := rfl

theorem SameButBank.trans {s t u : State} (h : SameButBank s t) (h' : SameButBank t u) : SameButBank s u := by
  unfold SameButBank at h h' ⊢
  rw [h', h]

theorem sameButBank_setGz (s : State) (u : Nat) (g : Goertzel) : SameButBank s (s.setGz u g) := rfl

/-! ### One change of every unit of a list -/

/-- The units of the list changed by `f`, one after the other. -/
def changeUnits (f : Goertzel → Goertzel) (us : List Nat) (s : State) : State :=
  us.foldl (fun t u => t.setGz u (f (t.gzAt u))) s

theorem changeUnits_sameButBank (f : Goertzel → Goertzel) (us : List Nat) (s : State) :
    SameButBank s (changeUnits f us s) :=
  foldl_inv (SameButBank s) _ (fun t u h => h.trans (sameButBank_setGz t u _)) us s (.refl s)

/-- Every unit of the list is changed once, or by a change that a repetition does not alter; the others are kept. -/
theorem gzAt_changeUnits {f : Goertzel → Goertzel} {us : List Nat} (h : us.Nodup ∨ ∀ g, f (f g) = f g) (s : State)
    {j : Nat} (hj : j < 16) : (changeUnits f us s).gzAt j = if j ∈ us then f (s.gzAt j) else s.gzAt j := by
  induction us generalizing s with
  | nil => rfl
  | cons u us ih =>
    have hrest : us.Nodup ∨ ∀ g, f (f g) = f g := h.imp_left (fun hn => (List.nodup_cons.mp hn).2)
    change (changeUnits f us (s.setGz u (f (s.gzAt u)))).gzAt j = _
    rw [ih hrest, gzAt_setGz]
    simp only [List.mem_cons]
    by_cases hu : u = j
    · subst hu
      simp only [true_and, hj, if_true, true_or]
      split
      case isTrue hmem => exact h.elim (fun hn => absurd hmem (List.nodup_cons.mp hn).1) (fun hf => hf _)
      case isFalse => rfl
    · simp only [hu, Ne.symm hu, false_and, if_false, false_or]

/-! ### The units of the classifier -/

theorem mem_ownedUnits (s : State) (u : Nat) :
    u ∈ ownedUnits s ↔ u < s.det.na.toNat ∨ (8 ≤ u ∧ u - 8 < s.det.nb.toNat) := by
  rw [ownedUnits, List.mem_append, List.mem_range, List.mem_map]
  refine or_congr_right ⟨?_, fun h => ⟨u - 8, List.mem_range.mpr h.2, by omega⟩⟩
  rintro ⟨j, hj, rfl⟩
  rw [List.mem_range] at hj
  omega

theorem mem_fedUnits (s : State) (dual : Bool) (u : Nat) :
    u ∈ fedUnits s dual ↔ u < s.det.na.toNat ∨ (dual = true ∧ 8 ≤ u ∧ u - 8 < s.det.nb.toNat) := by
  cases dual
  · simp [fedUnits]
  · simp [fedUnits, mem_ownedUnits]

theorem mem_owned_of_mem_fed {s : State} {dual : Bool} {u : Nat} (h : u ∈ fedUnits s dual) : u ∈ ownedUnits s :=
  (mem_ownedUnits s u).mpr (((mem_fedUnits s dual u).mp h).imp_right And.right)

/-- No unit is fed twice by one sample: subset A ends before unit 8. -/
theorem fedUnits_nodup {s : State} (h : s.det.na.toNat ≤ 8) (dual : Bool) : (fedUnits s dual).Nodup := by
  cases dual
  · exact List.nodup_range
  · refine List.nodup_append'.mpr ⟨List.nodup_range, List.nodup_range.map (fun i j hij => by simpa using hij), ?_⟩
    intro u ha hb
    obtain ⟨j, -, rfl⟩ := List.mem_map.mp hb
    rw [List.mem_range] at ha
    omega

/-! ### Samples into the classifier -/

theorem detStep_eq (dual : Bool) (s : State) (x : Word) :
    detStep dual s x =
      { s with
        gz := (changeUnits (fun g => g.step x.toInt) (fedUnits s dual) s).gz
        det := { s.det with fill := s.det.fill + 1#16 } } := by
  have hbank := changeUnits_sameButBank (fun g => g.step x.toInt) (fedUnits s dual) s
  change ({ changeUnits (fun g => g.step x.toInt) (fedUnits s dual) s with
    det := { (changeUnits (fun g => g.step x.toInt) (fedUnits s dual) s).det with
      fill := (changeUnits (fun g => g.step x.toInt) (fedUnits s dual) s).det.fill + 1#16 } } : State) = _
  rw [hbank]

/-- A block of samples moves the fill count and the bank alone. -/
theorem foldl_detStep_eq (dual : Bool) (xs : List Word) (s : State) :
    xs.foldl (detStep dual) s =
      { s with
        gz := (xs.foldl (detStep dual) s).gz
        det := { s.det with fill := s.det.fill + BitVec.ofNat 16 xs.length } } := by
  induction xs generalizing s with
  | nil => simp
  | cons x xs ih =>
    have hfill : s.det.fill + 1#16 + BitVec.ofNat 16 xs.length = s.det.fill + BitVec.ofNat 16 (xs.length + 1) := by
      rw [BitVec.ofNat_add, BitVec.add_assoc, BitVec.add_comm 1#16]
    rw [List.foldl_cons, ih, detStep_eq, List.length_cons, ← hfill]

/-- Exactly the fed units take the samples, each of them all of them. -/
theorem gzAt_foldl_detStep (dual : Bool) (xs : List Word) {s : State} (hna : s.det.na.toNat ≤ 8) {u : Nat} (hu : u < 16) :
    (xs.foldl (detStep dual) s).gzAt u = if u ∈ fedUnits s dual then accumulate xs (s.gzAt u) else s.gzAt u := by
  induction xs generalizing s with
  | nil => simp
  | cons x xs ih =>
    have hunit : (detStep dual s x).gzAt u =
        if u ∈ fedUnits s dual then (s.gzAt u).step x.toInt else s.gzAt u := by
      rw [detStep_eq]
      exact gzAt_changeUnits (.inl (fedUnits_nodup hna dual)) s hu
    have hdet : (detStep dual s x).det.na = s.det.na ∧ (detStep dual s x).det.nb = s.det.nb := by simp [detStep_det]
    have hfed : fedUnits (detStep dual s x) dual = fedUnits s dual := by
      simp only [fedUnits, ownedUnits, hdet]
    rw [List.foldl_cons, ih (by rwa [hdet.1]), hfed, hunit]
    split <;> rfl

/-! ### Clearing the owned units -/

theorem gzAt_detClearUnits (s : State) {u : Nat} (hu : u < 16) :
    (detClearUnits s).gzAt u = if u ∈ ownedUnits s then (s.gzAt u).clear else s.gzAt u :=
  gzAt_changeUnits (f := Goertzel.clear) (.inr (fun _ => rfl)) s hu

theorem detClearUnits_sameButBank (s : State) : SameButBank s (detClearUnits s) :=
  changeUnits_sameButBank Goertzel.clear (ownedUnits s) s

/-- A cleared unit has forgotten its samples. -/
theorem clear_accumulate (xs : List Word) (g : Goertzel) : (accumulate xs g).clear = g.clear := by
  induction xs generalizing g with
  | nil => rfl
  | cons x xs ih => exact ih (g.step x.toInt)

end Sys2Proof.Proofs
end

section
/-! # The configuration of the classifier (`spec/42_tone_engine.md` R200, R201, R208, R211) -/

namespace Sys2Proof.Proofs

open Sys2Proof.Machine Sys2Proof.Laws

/-! ### The frequencies of a candidate list -/

theorem mem_distinct (acc l : List Nat) (f : Nat) : f ∈ distinct acc l ↔ f ∈ acc ∨ f ∈ l := by
  induction l generalizing acc with
  | nil => simp [distinct]
  | cons a l ih =>
    rw [distinct, ih, List.mem_cons]
    split
    case isTrue h =>
      have ha : a ∈ acc := by simpa using h
      exact ⟨fun h => h.imp_right .inr, fun h => h.elim .inl (fun h => h.elim (fun e => .inl (e ▸ ha)) .inr)⟩
    case isFalse h => rw [List.mem_append, List.mem_singleton, or_assoc]

theorem distinct_nodup {acc : List Nat} (h : acc.Nodup) (l : List Nat) : (distinct acc l).Nodup := by
  induction l generalizing acc with
  | nil => exact h
  | cons a l ih =>
    rw [distinct]
    refine ih ?_
    split
    case isTrue => exact h
    case isFalse ha => exact List.nodup_append_comm.mp (List.nodup_cons.mpr ⟨by simpa using ha, h⟩)

theorem mem_subsetA (ids : List Nat) (f : Nat) : f ∈ subsetA ids ↔ ∃ i ∈ ids, (toneDesc i).f1 = f := by
  simp [subsetA, mem_distinct]

theorem mem_subsetB (ids : List Nat) (f : Nat) : f ∈ subsetB ids ↔ f ≠ 0 ∧ ∃ i ∈ ids, (toneDesc i).f2 = f := by
  simp [subsetB, mem_distinct, and_comm]

/-! ### The units of a configuration -/

theorem detInitUnits_sameButBank (base : Nat) (l : List Nat) (s : State) : SameButBank s (detInitUnits base l s) := by
  induction l generalizing base s with
  | nil => exact .refl s
  | cons f l ih => exact (sameButBank_setGz s base _).trans (ih (base + 1) _)

/-- Unit `base + j` is set up for the j-th frequency, every other unit is kept. -/
theorem gzAt_detInitUnits (base : Nat) (l : List Nat) (s : State) {u : Nat} (hu : u < 16) :
    (detInitUnits base l s).gzAt u =
      if base ≤ u ∧ u - base < l.length then unitSetUp (l.getD (u - base) 0) s.srate.toNat 256#16 else s.gzAt u := by
  induction l generalizing base s with
  | nil => simp [detInitUnits]
  | cons f l ih =>
    have hset : gzInit base f Config.detBlock s = s.setGz base (unitSetUp f s.srate.toNat 256#16) := gzInit_eq base f 256#16 s
    rw [detInitUnits, hset, ih, gzAt_setGz, setGz_srate, List.length_cons]
    rcases Nat.lt_trichotomy u base with h | h | h
    · rw [if_neg (by omega), if_neg (by omega), if_neg (by omega)]
    · subst h
      rw [if_neg (by omega), if_pos ⟨rfl, hu⟩, if_pos (by omega), Nat.sub_self]
      rfl
    · obtain ⟨j, rfl⟩ := Nat.exists_eq_add_of_lt h
      have hj : base + j + 1 - (base + 1) = j ∧ base + j + 1 - base = j + 1 := by omega
      rw [hj.1, hj.2, List.getD_cons_succ]
      simp only [show base + 1 ≤ base + j + 1 by omega, show base ≤ base + j + 1 by omega,
        show ¬ base = base + j + 1 by omega, true_and, false_and, if_false, Nat.add_lt_add_iff_right]

/-! ### The operations -/

/-- The causes of `FAIL` of `DET_CFG`, none of which holds (R208). -/
theorem detCfg_accepts {ids : List Word} {s : State} (h : failCause (.detCfg ids) s = false) :
    ids.length ≠ 0 ∧ ids.length ≤ 16 ∧ ids.all detIdOk = true ∧ (subsetA (ids.map BitVec.toNat)).length ≤ 8 ∧
    (subsetB (ids.map BitVec.toNat)).length ≤ 8 := by
  simp only [failCause, Bool.or_eq_false_iff, decide_eq_false_iff_not, Nat.not_lt, List.any_eq_false] at h
  obtain ⟨⟨⟨⟨hpos, hlen⟩, hids⟩, ha⟩, hb⟩ := h
  refine ⟨hpos, hlen, List.all_eq_true.mpr (fun a ha => ?_), ha, hb⟩
  simpa [detIdOk] using hids a ha

/-- The state that the configuration of accepted candidates leaves (R200). -/
def configured (ids : List Nat) (s : State) : State :=
  detInitUnits 8 (subsetB ids) (detInitUnits 0 (subsetA ids) { s with det := detRegs ids (subsetA ids) (subsetB ids) })

theorem exec_detCfg {ids : List Word} {s : State} (h : failCause (.detCfg ids) s = false) :
    exec (.detCfg ids) s = answerOk (configured (ids.map BitVec.toNat) s.begin) [] [] := by
  obtain ⟨hpos, hlen, hids, ha, hb⟩ := detCfg_accepts h
  have hcfg := (detCfg_eq_some s.begin (ids.map BitVec.toNat) _).mpr ⟨ha, hb, rfl⟩
  have hchecks : ¬ (ids.length = 0 ∨ Config.detCandMax < ids.length ∨ ids.all detIdOk = false) := by
    simp [Config.detCandMax, hids, hpos, hlen, -List.all_eq_false, -List.length_eq_zero_iff]
  change execDetCfg ids s = _
  rw [execDetCfg, if_neg hchecks, hcfg]
  rfl

/-- The configuration writes the classifier and the bank alone. -/
theorem configured_eq (ids : List Nat) (s : State) :
    configured ids s = { s with det := detRegs ids (subsetA ids) (subsetB ids), gz := (configured ids s).gz } :=
  (detInitUnits_sameButBank 0 (subsetA ids) _).trans (detInitUnits_sameButBank 8 (subsetB ids) _)

/-- The units after a configuration: subset A from unit 0, subset B from unit 8, the others kept. -/
theorem gz_configured {ids : List Nat} (ha : (subsetA ids).length ≤ 8) (s : State) (u : Fin 16) :
    (configured ids s).gz[u] =
      if u.val < (subsetA ids).length then unitSetUp ((subsetA ids).getD u.val 0) s.srate.toNat 256#16
      else if 8 ≤ u.val ∧ u.val - 8 < (subsetB ids).length then
        unitSetUp ((subsetB ids).getD (u.val - 8) 0) s.srate.toNat 256#16
      else s.gz[u] := by
  rw [← gzAt_fin, ← gzAt_fin, configured, gzAt_detInitUnits _ _ _ u.isLt, gzAt_detInitUnits _ _ _ u.isLt,
    (detInitUnits_keeps _ 0 (subsetA ids)).1]
  simp only [Nat.zero_le, true_and, Nat.sub_zero]
  by_cases h : u.val < (subsetA ids).length
  · rw [if_pos h, if_pos h, if_neg (by omega)]
  · rw [if_neg h, if_neg h]
    rfl

/-- `DET_RESET` empties the block and clears the owned units (R201, R211). -/
theorem detClear_eq (s : State) :
    detClear s = { s with det := { s.det with fill := 0#16, cand := 0#8, hits := 0#32 }, gz := (detClear s).gz } :=
  detClearUnits_sameButBank { s with det := { s.det with fill := 0#16, cand := 0#8, hits := 0#32 } }

end Sys2Proof.Proofs
end

section
/-! # The winner and the class of a block (`spec/42_tone_engine.md` R203 to R206) -/

namespace Sys2Proof.Proofs

open Sys2Proof.Machine Sys2Proof.Laws

/-! ### The selected frequency pair -/

theorem strongest_unique {m : Nat} {p : Nat → Int} {i j : Nat} (hi : strongest m p i) (hj : strongest m p j) : i = j := by
  obtain ⟨him, himax, hifirst⟩ := hi
  obtain ⟨hjm, hjmax, hjfirst⟩ := hj
  rcases Nat.lt_trichotomy i j with h | h | h
  · exact absurd (hjfirst i h) (not_lt.mpr (himax j hjm))
  · exact h
  · exact absurd (hifirst j h) (not_lt.mpr (hjmax i him))

/-- The powers select one pair at most. -/
theorem pairSelected_unique {dual : Bool} {det : Detector} {p : Nat → Int} {f1 f2 g1 g2 : Nat}
    (hf : pairSelected dual det p f1 f2) (hg : pairSelected dual det p g1 g2) : f1 = g1 ∧ f2 = g2 := by
  obtain ⟨a, ha, -, rfl, hf⟩ := hf
  obtain ⟨a', ha', -, rfl, hg⟩ := hg
  obtain rfl := strongest_unique ha ha'
  cases dual
  · exact ⟨rfl, Eq.trans hf (Eq.symm hg)⟩
  · obtain ⟨b, hb, -, -, rfl⟩ := hf
    obtain ⟨b', hb', -, -, rfl⟩ := hg
    obtain rfl := strongest_unique hb hb'
    exact ⟨rfl, rfl⟩

/-- A pair is selected only where subset A has a unit and its strongest reaches the threshold. -/
theorem pairSelected_subsetA {dual : Bool} {det : Detector} {p : Nat → Int} {f1 f2 : Nat}
    (h : pairSelected dual det p f1 f2) : 0 < det.na.toNat ∧ ∀ a, strongest det.na.toNat p a → 2 ^ 30 ≤ p a := by
  obtain ⟨a, ha, hmin, -⟩ := h
  exact ⟨Nat.zero_lt_of_lt ha.1, fun a' ha' => strongest_unique ha ha' ▸ hmin⟩

/-- In the dual variant the same holds of subset B, and the two powers are within the twist. -/
theorem pairSelected_subsetB {det : Detector} {p : Nat → Int} {f1 f2 : Nat} (h : pairSelected true det p f1 f2) :
    0 < det.nb.toNat ∧ ∀ a b, strongest det.na.toNat p a → strongest det.nb.toNat (fun j => p (8 + j)) b →
      2 ^ 30 ≤ p (8 + b) ∧ max (p a) (p (8 + b)) / 16 ≤ min (p a) (p (8 + b)) := by
  obtain ⟨a, ha, -, -, b, hb, hmin, htwist, -⟩ := h
  refine ⟨Nat.zero_lt_of_lt hb.1, fun a' b' ha' hb' => ?_⟩
  obtain rfl := strongest_unique ha ha'
  obtain rfl := strongest_unique hb hb'
  exact ⟨hmin, htwist⟩

theorem blockWinner_none {dual : Bool} {det : Detector} {p : Nat → Int} (h : ∀ f1 f2, ¬ pairSelected dual det p f1 f2) :
    blockWinner dual det p 0#8 :=
  .inr ⟨fun f1 f2 _ hf => absurd hf (h f1 f2), rfl⟩

/-- The first candidate with the selected pair, or 0, is the winner. -/
theorem blockWinner_candidateOf {dual : Bool} {s : State} {p : Nat → Int} {f1 f2 : Nat}
    (h : pairSelected dual s.det p f1 f2) : blockWinner dual s.det p (candidateOf s f1 f2) := by
  have hhas : ∀ i, (decide ((toneDesc (vget s.det.candId 0#8 i).toNat).f1 = f1) &&
      decide ((toneDesc (vget s.det.candId 0#8 i).toNat).f2 = f2)) = true ↔ candidateHas s.det f1 f2 i := fun i => by
    rw [Bool.and_eq_true, decide_eq_true_iff, decide_eq_true_iff, candidateHas]
  unfold candidateOf
  cases hfind : (candidates s).find? _ with
  | none =>
    refine .inr ⟨fun g1 g2 i hg hi hc => ?_, rfl⟩
    obtain ⟨rfl, rfl⟩ := pairSelected_unique h hg
    exact List.find?_eq_none.mp hfind _ (List.mem_map_of_mem (List.mem_range.mpr hi)) ((hhas i).mpr hc)
  | some c =>
    obtain ⟨hc, i, hi, rfl, hfirst⟩ := List.find?_eq_some_iff_getElem.mp hfind
    have hlen : (candidates s).length = s.det.n.toNat := by simp [candidates]
    have hget : ∀ (j : Nat) (hj : j < (candidates s).length), (candidates s)[j] = vget s.det.candId 0#8 j :=
      fun j hj => by simp [candidates]
    rw [hget] at hc
    refine .inl ⟨f1, f2, i, h, hlen ▸ hi, (hhas i).mp hc, fun j hj hj' => ?_, hget i hi⟩
    have hno := hfirst j hj
    rw [hget, (hhas j).mpr hj'] at hno
    contradiction

/-! ### The winner of a block -/

/-- The index and the value that `argmax` finds among the powers of a subset. -/
theorem argmax_subset {m : Nat} (p : Nat → Int) (hm : 0 < m) :
    strongest m p (argmax ((List.range m).map p)) ∧
      ((List.range m).map p).getD (argmax ((List.range m).map p)) 0 = p (argmax ((List.range m).map p)) := by
  have h := argmax_strongest p m hm
  exact ⟨h, by simp [h.1]⟩

/-- What `detWinner` answers is the winner by the rule, for the powers of the units that the variant reads. -/
theorem blockWinner_detWinner (dual : Bool) {s : State} {p : Nat → Int}
    (hp : ∀ u ∈ fedUnits s dual, (s.gzAt u).value = p u) : blockWinner dual s.det p (detWinner dual s) := by
  have hpa : (List.range s.det.na.toNat).map (fun j => (s.gzAt j).value) = (List.range s.det.na.toNat).map p :=
    List.map_congr_left (fun j hj => hp j ((mem_fedUnits s dual j).mpr (.inl (List.mem_range.mp hj))))
  unfold detWinner
  dsimp only
  rw [hpa, detPowerMin_eq]
  rcases Nat.eq_zero_or_pos s.det.na.toNat with hna | hna
  · rw [hna]
    exact blockWinner_none (fun f1 f2 h => (pairSelected_subsetA h).1.ne' hna)
  obtain ⟨ha, hva⟩ := argmax_subset p hna
  rw [hva]
  generalize argmax ((List.range s.det.na.toNat).map p) = a at ha ⊢
  split
  case isTrue hlow => exact blockWinner_none (fun f1 f2 h => hlow.not_ge ((pairSelected_subsetA h).2 a ha))
  case isFalse hlow =>
    have hmin : 2 ^ 30 ≤ p a := not_lt.mp hlow
    cases dual
    · exact blockWinner_candidateOf ⟨a, ha, hmin, rfl, rfl⟩
    have hpb : (List.range s.det.nb.toNat).map (fun j => (s.gzAt (8 + j)).value) =
        (List.range s.det.nb.toNat).map (fun j => p (8 + j)) :=
      List.map_congr_left (fun j hj => hp (8 + j) ((mem_fedUnits s true _).mpr
        (.inr ⟨rfl, by omega, by rw [List.mem_range] at hj; omega⟩)))
    rw [hpb, if_pos rfl]
    rcases Nat.eq_zero_or_pos s.det.nb.toNat with hnb | hnb
    · rw [if_neg (by omega)]
      exact blockWinner_none (fun f1 f2 h => (pairSelected_subsetB h).1.ne' hnb)
    obtain ⟨hb, hvb⟩ := argmax_subset (fun j => p (8 + j)) hnb
    rw [hvb]
    generalize argmax ((List.range s.det.nb.toNat).map (fun j => p (8 + j))) = b at hb ⊢
    split
    case isTrue hsel =>
      obtain ⟨-, hmin', htwist⟩ := hsel
      exact blockWinner_candidateOf ⟨a, ha, hmin, rfl, b, hb, hmin', htwist, rfl⟩
    case isFalse hsel => exact blockWinner_none (fun f1 f2 h => hsel ⟨hnb, (pairSelected_subsetB h).2 a b ha hb⟩)

end Sys2Proof.Proofs
end

section
/-! # Blocks of samples and runs of blocks (`spec/42_tone_engine.md` R204 to R212) -/

namespace Sys2Proof.Proofs

open Sys2Proof.Machine Sys2Proof.Laws

/-! ### The detector operations -/

/-- `DET_DUAL` and `DET_SINGLE` report what `detect` does (R209, R210). -/
theorem exec_detect (dual : Bool) (xs : List Word) (s : State) :
    exec (if dual then .detDual xs else .detSingle xs) s =
      answerOk (detect dual xs s.begin).1 [classCode (detect dual xs s.begin).2.cls,
        (detect dual xs s.begin).2.id.setWidth 32, BitVec.ofNat 32 (detect dual xs s.begin).2.used] [] := by
  cases dual <;> rfl

theorem foldl_detStep_fill {dual : Bool} {xs : List Word} {s : State} (h : s.det.fill.toNat + xs.length ≤ 256) :
    (xs.foldl (detStep dual) s).det.fill.toNat = s.det.fill.toNat + xs.length := by
  have hfill : (s.det.fill + BitVec.ofNat 16 xs.length).toNat = s.det.fill.toNat + xs.length := by
    rw [BitVec.toNat_add, BitVec.toNat_ofNat]
    omega
  rw [foldl_detStep_eq]
  exact hfill

/-- Samples that stay inside the block are all taken (R204). -/
theorem detect_inside {dual : Bool} {xs : List Word} {s : State} (hn : s.det.n ≠ 0#5)
    (h : s.det.fill.toNat + xs.length < 256) :
    detect dual xs s = (xs.foldl (detStep dual) s, ⟨.inProgress, s.det.cand, xs.length⟩) := by
  have hused : min xs.length (Config.detBlock - s.det.fill.toNat) = xs.length := by
    rw [detBlock_eq]
    omega
  have hcand : (xs.foldl (detStep dual) s).det.cand = s.det.cand := by rw [foldl_detStep_eq]
  unfold detect
  rw [if_neg hn]
  dsimp only
  rw [hused, List.take_length, if_pos (by rw [foldl_detStep_fill h.le, detBlock_eq]; exact h), hcand]

/-- Samples that reach the end of the block: those up to it are taken, and the block ends (R204). -/
theorem detect_end {dual : Bool} {xs : List Word} {s : State} (hn : s.det.n ≠ 0#5) (hfill : s.det.fill.toNat < 256)
    (h : 256 ≤ s.det.fill.toNat + xs.length) :
    detect dual xs s =
      detFinish dual (256 - s.det.fill.toNat) ((xs.take (256 - s.det.fill.toNat)).foldl (detStep dual) s) := by
  have hused : min xs.length (Config.detBlock - s.det.fill.toNat) = 256 - s.det.fill.toNat := by
    rw [detBlock_eq]
    omega
  have hlen : (xs.take (256 - s.det.fill.toNat)).length = 256 - s.det.fill.toNat := List.length_take_of_le (by omega)
  unfold detect
  rw [if_neg hn]
  dsimp only
  rw [hused, if_neg (by rw [foldl_detStep_fill (by omega), detBlock_eq]; omega)]

/-- The end of a block in the terms of the rules: the bank without the owned units' samples, the fill count 0, and what R206
makes of the winner. -/
theorem detFinish_eq (dual : Bool) (used : Nat) (s : State) :
    detFinish dual used s =
      (let r := blockClass s.srate s.det (detWinner dual s)
       ({ s with
          gz := (detClearUnits s).gz
          det := { s.det with fill := 0#16, cand := r.2.2.1, hits := r.2.2.2 } }, ⟨r.1, r.2.1, used⟩)) := by
  unfold detFinish
  dsimp only
  rw [detClearUnits_sameButBank s, classify_eq]
  rfl

/-- The fill count does not decide the winner. -/
theorem blockWinner_fill (dual : Bool) (det : Detector) (f : BitVec 16) (p : Nat → Int) (c : Byte) :
    blockWinner dual { det with fill := f } p c ↔ blockWinner dual det p c := Iff.rfl

/-- The state with a block filled up: the samples that are left of it taken (R204). -/
def blockFilled (dual : Bool) (xs : List Word) (s : State) : State :=
  (xs.take (256 - s.det.fill.toNat)).foldl (detStep dual) s

/-- All that the end of a block writes and reports. -/
theorem detect_end_eq {dual : Bool} {xs : List Word} {s : State} (hn : s.det.n ≠ 0#5) (hfill : s.det.fill.toNat < 256)
    (h : 256 ≤ s.det.fill.toNat + xs.length) :
    detect dual xs s =
      (let r := blockClass s.srate s.det (detWinner dual (blockFilled dual xs s))
       ({ s with
          gz := (detClearUnits (blockFilled dual xs s)).gz
          det := { s.det with fill := 0#16, cand := r.2.2.1, hits := r.2.2.2 } },
        ⟨r.1, r.2.1, 256 - s.det.fill.toNat⟩)) := by
  rw [detect_end hn hfill h, detFinish_eq, ← blockFilled]
  generalize detWinner dual (blockFilled dual xs s) = c
  generalize (detClearUnits (blockFilled dual xs s)).gz = gz
  rw [blockFilled, foldl_detStep_eq]
  rfl

/-- The units of a subset stand in the bank. -/
theorem lt_sixteen_of_mem_fed {s : State} {dual : Bool} {u : Nat} (hna : s.det.na.toNat ≤ 8) (hnb : s.det.nb.toNat ≤ 8)
    (h : u ∈ fedUnits s dual) : u < 16 := by
  rw [mem_fedUnits] at h
  omega

/-- The samples leave the configuration, and with it which units are fed and owned. -/
theorem blockFilled_det (dual : Bool) (xs : List Word) (s : State) :
    (blockFilled dual xs s).det = { s.det with fill := (blockFilled dual xs s).det.fill } := by
  rw [blockFilled, foldl_detStep_eq]

theorem units_blockFilled (dual : Bool) (xs : List Word) (s : State) :
    fedUnits (blockFilled dual xs s) dual = fedUnits s dual ∧ ownedUnits (blockFilled dual xs s) = ownedUnits s := by
  rw [blockFilled, foldl_detStep_eq]
  exact ⟨rfl, rfl⟩

/-- The winner at the end of a block, from the powers of the fed units with the samples in them. -/
theorem blockWinner_blockFilled {dual : Bool} {xs : List Word} {s : State} (hna : s.det.na.toNat ≤ 8)
    (hnb : s.det.nb.toNat ≤ 8) :
    blockWinner dual s.det (fun u => (accumulate (xs.take (256 - s.det.fill.toNat)) (s.gzAt u)).value)
      (detWinner dual (blockFilled dual xs s)) := by
  obtain ⟨hfed, -⟩ := units_blockFilled dual xs s
  rw [← blockWinner_fill dual s.det (blockFilled dual xs s).det.fill, ← blockFilled_det]
  refine blockWinner_detWinner dual (fun u hu => ?_)
  rw [hfed] at hu
  rw [blockFilled, gzAt_foldl_detStep dual _ hna (lt_sixteen_of_mem_fed hna hnb hu), if_pos hu]

/-- The bank after the end of a block: the owned units are cleared, whatever they took; the others are kept. -/
theorem gz_blockEnd {dual : Bool} {xs : List Word} {s : State} (hna : s.det.na.toNat ≤ 8) (u : Fin 16) :
    (detClearUnits (blockFilled dual xs s)).gz[u] = if u.val ∈ ownedUnits s then s.gz[u].clear else s.gz[u] := by
  obtain ⟨-, howned⟩ := units_blockFilled dual xs s
  rw [← gzAt_fin, ← gzAt_fin, gzAt_detClearUnits _ u.isLt, howned, blockFilled, gzAt_foldl_detStep dual _ hna u.isLt]
  split
  case isTrue hown =>
    rw [apply_ite Goertzel.clear, clear_accumulate, ite_self]
  case isFalse hown => exact if_neg (fun h => hown (mem_owned_of_mem_fed h))

/-! ### An unbroken tone -/

/-- `DET_HITS` after one more block of the tone `c` (R206). -/
def hitsNext (det : Detector) (c : Byte) : Word := if c = det.cand then det.hits + 1#32 else 1#32

/-- The class of a block of a tone without a maximum duration (R206). -/
theorem classify_unlimited {c : Byte} (hc : c ≠ 0#8) (hplay : (toneDesc c.toNat).playMs = 0) (used : Nat) (s : State) :
    classify c used s =
      (let dur : Int := ((hitsNext s.det c).toNat : Int) * 256
       let deb : Int := ((msToSamples s.srate (toneDesc c.toNat).debMs).toNat : Int)
       ({ s with det := { s.det with cand := c, hits := hitsNext s.det c } },
        ⟨if dur < deb then .inProgress else if dur - 256 < deb then .new else .continuing, c, used⟩)) := by
  rw [classify_eq, blockClass, if_neg hc, if_neg (by simp [hplay])]
  dsimp only [hitsNext, msToSamples]
  split_ifs <;> rfl

/-- Before block `n + 1` of the tone the count is such that this block makes it `n + 1`. -/
theorem hitsNext_iterate {c : Byte} (hc : c ≠ 0#8) (hplay : (toneDesc c.toNat).playMs = 0) (used n : Nat) {s : State}
    (hs : s.det.cand ≠ c) :
    hitsNext ((fun t => (classify c used t).1)^[n] s).det c = BitVec.ofNat 32 (n + 1) := by
  induction n with
  | zero => exact if_neg (Ne.symm hs)
  | succ n ih =>
    rw [Function.iterate_succ_apply', classify_unlimited hc hplay]
    dsimp only
    rw [ih, hitsNext, if_pos rfl, BitVec.ofNat_add (n + 1)]

theorem srate_iterate_classify (c : Byte) (used n : Nat) (s : State) :
    ((fun t => (classify c used t).1)^[n] s).srate = s.srate := by
  induction n with
  | zero => rfl
  | succ n ih =>
    rw [Function.iterate_succ_apply', ← ih]
    exact (classify_keeps _ c used).1

end Sys2Proof.Proofs
end

section
/-! # The obligations on the classifier -/

namespace Sys2Proof.Proofs

open Sys2Proof.Machine Sys2Proof.Laws

/-- Settles O36: the units of the two subsets do not overlap, and clearing a unit twice is clearing it once. -/
theorem detectorConfigReset : Obligations.DetectorConfigReset := by
  unfold Obligations.DetectorConfigReset
  refine ⟨fun ids s h => ?_, reads_of_encode rfl rfl, fun s => ⟨(detClear s.begin).gz, ?_, fun u => ?_⟩⟩
  · obtain ⟨-, hlen, -, ha, hb⟩ := detCfg_accepts h
    refine ⟨distinct_nodup List.nodup_nil _, fun f => by simp [mem_subsetA], distinct_nodup List.nodup_nil _,
      fun f => by simp [mem_subsetB], detRegs (ids.map BitVec.toNat) _ _, (configured (ids.map BitVec.toNat) s.begin).gz,
      ?_, ?_, ?_, ?_, rfl, rfl, rfl, fun i => ?_, fun j => ⟨vecOf_get _ j.isLt, vecOf_get _ j.isLt⟩,
      gz_configured ha s.begin⟩
    · rw [exec_detCfg h, configured_eq]
      rfl
    · simp only [detRegs, List.length_map, BitVec.toNat_ofNat]
      omega
    · simp only [detRegs, BitVec.toNat_ofNat]
      omega
    · simp only [detRegs, BitVec.toNat_ofNat]
      omega
    · refine (vecOf_get _ i.isLt).trans ?_
      rw [← BitVec.ofNat_toNat]
      exact congrArg (BitVec.ofNat 8) (List.getD_map ids 0#32 BitVec.toNat)
  · change answerOk (detClear s.begin) [] [] = _
    rw [detClear_eq]
    rfl
  · rw [← gzAt_fin]
    refine (gzAt_detClearUnits _ u.isLt).trans ?_
    simp only [mem_ownedUnits]
    rw [gzAt_fin]
    rfl

/-- Settles O37: inside a block the fed units accumulate; at its end `detWinner` reads them and `classify` their winner. -/
theorem detectorSamples : Obligations.DetectorSamples := by
  unfold Obligations.DetectorSamples
  intro dual xs s hxs
  dsimp only
  rw [exec_detect]
  refine ⟨fun hn => ?_, fun hn hna hnb hfill => ?_, fun hn hn16 hna hnb hfill hend => ?_⟩
  · have hoff : detect dual xs s.begin = (s.begin, ⟨.none, 0#8, xs.length⟩) := if_pos hn
    rw [hoff]
    rfl
  · have hunit := fun u : Fin 16 => gzAt_foldl_detStep dual xs (s := s.begin) hna u.isLt
    simp only [mem_fedUnits, gzAt_fin] at hunit
    refine ⟨(xs.foldl (detStep dual) s.begin).gz, ?_, fun u hu => (hunit u).trans (if_pos hu),
      fun u hu => (hunit u).trans (if_neg hu)⟩
    rw [detect_inside (s := s.begin) hn hfill, foldl_detStep_eq]
    rfl
  · refine ⟨(detClearUnits (blockFilled dual xs s.begin)).gz, _, blockWinner_blockFilled (s := s.begin) hna hnb, ?_,
      fun u hu => ?_, fun u hu => ?_⟩
    · rw [detect_end_eq (s := s.begin) hn hfill hend]
      rfl
    · exact (gz_blockEnd (s := s.begin) hna u).trans (if_pos ((mem_ownedUnits s u).mpr hu))
    · exact (gz_blockEnd (s := s.begin) hna u).trans (if_neg (fun h => hu ((mem_ownedUnits s u).mp h)))

/-- Settles O38: block `n + 1` is the one that makes the count `n + 1`. -/
theorem unbrokenToneNewOnce : Obligations.UnbrokenToneNewOnce := by
  unfold Obligations.UnbrokenToneNewOnce
  intro c used n s hc hs hplay hn
  dsimp only
  have hhits : (BitVec.ofNat 32 (n + 1)).toNat = n + 1 := by
    rw [BitVec.toNat_ofNat]
    omega
  rw [classify_unlimited hc hplay, hitsNext_iterate hc hplay used n hs, srate_iterate_classify, hhits]
  have hdur : ∀ deb : Nat, (((n + 1 : Nat) : Int) * 256 < (deb : Int) ↔ (n + 1) * 256 < deb) ∧
      (((n + 1 : Nat) : Int) * 256 - 256 < (deb : Int) ↔ n * 256 < deb) := fun deb => by omega
  simp only [hdur, msToSamples]

end Sys2Proof.Proofs
end

section
/-! # Scheme selection (`spec/43_fsk_engine.md` R220 to R225) -/

namespace Sys2Proof.Proofs

open Sys2Proof.Machine Sys2Proof.Laws

/-! ### What one channel gets -/

/-- A channel with the registers derived from its descriptor; its modulator and demodulator are kept (R224). -/
def derivedChannel (srate : Word) (e : ChannelDesc) (x : FskChannel) : FskChannel :=
  { x with
    inc0 := phaseIncrement e.f0 srate.toNat
    inc1 := phaseIncrement e.f1 srate.toNat
    binc := phaseIncrement e.baud srate.toNat
    symlen := BitVec.ofNat 16 (symlen srate e.baud)
    shift := BitVec.ofNat 4 (Nat.log2 (symlen srate e.baud)) }

/-- The frequency of table `t`: that of bit `t % 2` of channel `t / 2` (R224). -/
def tableFreq (d : SchemeDesc) (t : Nat) : Nat := if t % 2 = 0 then (d.chan (t / 2)).f0 else (d.chan (t / 2)).f1

/-- Table `t` built for its bit and channel (R224). -/
def channelTable (srate : Word) (d : SchemeDesc) (t : Nat) (x : IqTable) : IqTable :=
  x.build (tableFreq d t) srate.toNat (symlen srate (d.chan (t / 2)).baud)

theorem chanAt_fskSetChannel (d : SchemeDesc) (s : State) {c : Nat} (hc : c < 2) (j : Nat) :
    (fskSetChannel d s c).chanAt j = if c = j then derivedChannel s.srate (d.chan c) (s.chanAt c) else s.chanAt j := by
  have hset := chanAt_setChan s c j (derivedChannel s.srate (d.chan c) (s.chanAt c))
  simp only [hc, and_true] at hset
  exact hset

theorem iqAt_buildIq (s : State) {i : Nat} (hi : i < 4) (f len j : Nat) :
    (buildIq i f len s).iqAt j = if i = j then (s.iqAt j).build f s.srate.toNat len else s.iqAt j := by
  rw [buildIq, iqAt_setIq]
  simp only [hi, and_true]
  split
  case isTrue h => rw [h]
  case isFalse => rfl

theorem iqAt_fskSetChannel (d : SchemeDesc) (s : State) {c : Nat} (hc : c < 2) (t : Nat) :
    (fskSetChannel d s c).iqAt t = if t / 2 = c then channelTable s.srate d t (s.iqAt t) else s.iqAt t := by
  have heven : 2 * c < 4 := by omega
  have hodd : 2 * c + 1 < 4 := by omega
  rw [fskSetChannel, iqAt_buildIq _ hodd, iqAt_buildIq _ heven, (buildIq_keeps ..).1]
  by_cases ht : t / 2 = c
  · obtain hpar | hpar : t = 2 * c ∨ t = 2 * c + 1 := by omega
    · have hmod : t % 2 = 0 := by omega
      rw [if_neg (by omega), if_pos hpar.symm, if_pos ht, channelTable, tableFreq, if_pos hmod, ht]
      rfl
    · have hmod : t % 2 ≠ 0 := by omega
      rw [if_pos hpar.symm, if_neg (by omega), if_pos ht, channelTable, tableFreq, if_neg hmod, ht]
      rfl
  · rw [if_neg (by omega), if_neg (by omega), if_neg ht]
    rfl

/-! ### The loop over the channels of a scheme -/

theorem srate_foldl_fskSetChannel (d : SchemeDesc) (cs : List Nat) (s : State) :
    (cs.foldl (fskSetChannel d) s).srate = s.srate :=
  foldl_keeps State.srate (fskSetChannel d) (fun _ _ => rfl) cs s

/-- The channels below `n` have their registers, each from its own. -/
theorem chanAt_foldl_fskSetChannel (d : SchemeDesc) (s : State) {n : Nat} (hn : n ≤ 2) (c : Nat) :
    ((List.range n).foldl (fskSetChannel d) s).chanAt c =
      if c < n then derivedChannel s.srate (d.chan c) (s.chanAt c) else s.chanAt c := by
  induction n with
  | zero => rfl
  | succ n ih =>
    have ih := ih (by omega)
    rw [List.range_succ, List.foldl_append, List.foldl_cons, List.foldl_nil, chanAt_fskSetChannel d _ hn,
      srate_foldl_fskSetChannel]
    rcases Nat.lt_trichotomy c n with hlt | rfl | hgt
    · rw [if_neg (by omega), ih, if_pos hlt, if_pos (by omega)]
    · rw [if_pos rfl, ih, if_neg (by omega), if_pos (by omega)]
    · rw [if_neg (by omega), ih, if_neg (by omega), if_neg (by omega)]

/-- The tables of the channels below `n` are built, each from its own. -/
theorem iqAt_foldl_fskSetChannel (d : SchemeDesc) (s : State) {n : Nat} (hn : n ≤ 2) (t : Nat) :
    ((List.range n).foldl (fskSetChannel d) s).iqAt t =
      if t / 2 < n then channelTable s.srate d t (s.iqAt t) else s.iqAt t := by
  induction n with
  | zero => rfl
  | succ n ih =>
    have ih := ih (by omega)
    rw [List.range_succ, List.foldl_append, List.foldl_cons, List.foldl_nil, iqAt_fskSetChannel d _ hn,
      srate_foldl_fskSetChannel]
    rcases Nat.lt_trichotomy (t / 2) n with hlt | heq | hgt
    · rw [if_neg (by omega), ih, if_pos hlt, if_pos (by omega)]
    · rw [if_pos heq, ih, if_neg (by omega), if_pos (by omega)]
    · rw [if_neg (by omega), ih, if_neg (by omega), if_neg (by omega)]

/-! ### Clearing -/

theorem iqAt_foldl_clearIqLen (s : State) {n : Nat} (hn : n ≤ 4) (t : Nat) :
    ((List.range n).foldl clearIqLen s).iqAt t = if t < n then { s.iqAt t with len := 0#16 } else s.iqAt t := by
  induction n with
  | zero => rfl
  | succ n ih =>
    have ih := ih (by omega)
    rw [List.range_succ, List.foldl_append, List.foldl_cons, List.foldl_nil, clearIqLen, iqAt_setIq]
    rcases Nat.lt_trichotomy t n with hlt | rfl | hgt
    · rw [if_neg (by omega), ih, if_pos hlt, if_pos (by omega)]
    · rw [if_pos ⟨rfl, by omega⟩, ih, if_neg (by omega), if_pos (by omega)]
    · rw [if_neg (by omega), ih, if_neg (by omega), if_neg (by omega)]

/-- Clearing leaves the content of every table and takes its length away (R223). -/
theorem iqAt_fskClear (s : State) {t : Nat} (ht : t < 4) : (fskClear s).iqAt t = { s.iqAt t with len := 0#16 } := by
  have hfold := iqAt_foldl_clearIqLen { s with
    fsk := { FskRegs.reset with txen := s.fsk.txen }, chan := Vector.replicate _ FskChannel.reset } (le_refl 4) t
  rw [if_pos ht] at hfold
  simpa only [fskClear, State.iqAt, txqClear_iq, frmReset_keeps] using hfold

theorem chanAt_fskClear (s : State) {c : Nat} (hc : c < 2) : (fskClear s).chanAt c = FskChannel.reset := by
  have hchan : (fskClear s).chan = Vector.replicate _ FskChannel.reset := by
    unfold fskClear
    simp only [txqClear_chan, frmReset_keeps]
    rw [foldl_keeps State.chan clearIqLen (by simp)]
  rw [State.chanAt, hchan]
  exact vget_replicate _ _ hc

theorem txq_fskClear (s : State) : (fskClear s).txq = { s.txq with head := 0#6, count := 0#7 } := by
  unfold fskClear
  simp only [txqClear_txq, frmReset_keeps]
  rw [foldl_keeps State.txq clearIqLen (by simp)]

/-! ### The selection -/

/-- Scheme 0 has no channels, so its selection is a loop over none: every selection loops over its scheme's channels. -/
theorem fskSelect_loop (id : Byte) (s : State) :
    fskSelect id s =
      { (List.range (schemeDesc id.toNat).nch).foldl (fskSetChannel (schemeDesc id.toNat)) (fskClear s) with
        fsk := (fskSelect id s).fsk } := by
  unfold fskSelect
  split
  case isTrue h =>
    subst h
    rfl
  case isFalse => rfl

/-- The registers of a channel after a selection (R223, R224). -/
theorem fskSelect_chan (id : Byte) (s : State) (c : Fin 2) :
    (fskSelect id s).chan[c] =
      if c.val < (schemeDesc id.toNat).nch then
        derivedChannel s.srate ((schemeDesc id.toNat).chan c.val) FskChannel.reset
      else FskChannel.reset := by
  have hloop := chanAt_foldl_fskSetChannel (schemeDesc id.toNat) (fskClear s) (schemeDesc_fits id.toNat).1 c.val
  rw [chanAt_fskClear s c.isLt, (fskClear_keeps s).1] at hloop
  rw [fskSelect_loop, ← hloop, chanAt_fin]

/-- A table after a selection (R223, R224). -/
theorem fskSelect_iq (id : Byte) (s : State) (t : Fin 4) :
    (fskSelect id s).iq[t] =
      if t.val / 2 < (schemeDesc id.toNat).nch then
        channelTable s.srate (schemeDesc id.toNat) t.val { s.iq[t] with len := 0#16 }
      else { s.iq[t] with len := 0#16 } := by
  have hloop := iqAt_foldl_fskSetChannel (schemeDesc id.toNat) (fskClear s) (schemeDesc_fits id.toNat).1 t.val
  rw [iqAt_fskClear s t.isLt, (fskClear_keeps s).1, iqAt_fin s] at hloop
  rw [fskSelect_loop, ← hloop, iqAt_fin]

theorem fskSelect_txq (id : Byte) (s : State) : (fskSelect id s).txq = { s.txq with head := 0#6, count := 0#7 } := by
  rw [fskSelect_loop]
  dsimp only
  rw [foldl_keeps State.txq (fskSetChannel _) (by simp), txq_fskClear]

/-- The scheme registers after a selection are those of the descriptor, that of scheme 0 among them. -/
theorem fskSelect_fsk_desc (id : Byte) (s : State) :
    (fskSelect id s).fsk =
      { scheme := id
        nch := BitVec.ofNat 2 (schemeDesc id.toNat).nch
        txch := (schemeDesc id.toNat).defTx
        rxch := (schemeDesc id.toNat).defRx
        txen := s.fsk.txen } := by
  rw [fskSelect_fsk]
  split
  case isTrue h =>
    subst h
    rfl
  case isFalse => rfl

/-- `FSK_SELECT` of a scheme that it takes (R225). -/
theorem exec_fskSelect {id : Byte} {s : State} (h : id = 0#8 ∨ schemeUsable s.srate id.toNat = true) :
    exec (.fskSelect id) s = .next (State.ok (fskSelect id s.begin) [] []) := by
  rcases h with rfl | h
  · rfl
  · exact exec_fskSelect_usable h

/-- Everything that a selection writes, tables and channels by name (R223, R224, R225). -/
theorem exec_fskSelect_eq {id : Byte} {s : State} (h : id = 0#8 ∨ schemeUsable s.srate id.toNat = true) :
    exec (.fskSelect id) s = .next (State.answeredOk
      { s with
        fsk := ⟨id, BitVec.ofNat 2 (schemeDesc id.toNat).nch, (schemeDesc id.toNat).defTx, (schemeDesc id.toNat).defRx,
          s.fsk.txen⟩
        iq := (fskSelect id s.begin).iq
        chan := (fskSelect id s.begin).chan
        codec := s.codec.set 0 s.codec[(0 : Fin 3)].clear (Nat.succ_pos 2)
        txq := { s.txq with head := 0#6, count := 0#7 } } [] [] []) := by
  have hline : (frmReset lineCodec s.begin).codec = s.codec.set 0 s.codec[(0 : Fin 3)].clear (Nat.succ_pos 2) := by
    rw [← codecAt_fin]
    exact vset_fin s.codec 0 _
  rw [exec_fskSelect h, fskSelect_eq_withFskOf, State.withFskOf, fskSelect_fsk_desc, fskSelect_codec, hline,
    fskSelect_txq]
  rfl

/-- The length of a selected scheme's tables is its symbol length, which the register holds (R221). -/
theorem channelTable_len {srate : Word} {id t : Nat} (h : schemeUsable srate id = true) (ht : t / 2 < (schemeDesc id).nch)
    (x : IqTable) :
    (channelTable srate (schemeDesc id) t x).len.toNat = symlen srate ((schemeDesc id).chan (t / 2)).baud := by
  have hle := symlen_of_usable h ht
  refine (BitVec.toNat_ofNat _ _).trans (Nat.mod_eq_of_lt ?_)
  omega

theorem usable_of_channel {srate : Word} {id : Byte} (h : id = 0#8 ∨ schemeUsable srate id.toNat = true) {c : Nat}
    (hc : c < (schemeDesc id.toNat).nch) : schemeUsable srate id.toNat = true := by
  refine h.resolve_left (fun h0 => ?_)
  subst h0
  exact absurd hc (Nat.not_lt_zero c)

end Sys2Proof.Proofs
end

section
/-! # The data path's bits, and the serial bit (`spec/43_fsk_engine.md` R243 to R246, `spec/46_facade_host.md` R343) -/

namespace Sys2Proof.Proofs

open Sys2Proof.Machine Sys2Proof.Laws

variable {s : State}

theorem codecAt_line (s : State) : s.codecAt lineCodec = s.codec[(0 : Fin 3)] := codecAt_fin s 0

theorem codecAt_dte (s : State) : s.codecAt dteCodec = s.codec[(1 : Fin 3)] := codecAt_fin s 1

theorem setCodec_line (s : State) (c : Codec) :
    s.setCodec lineCodec c = { s with codec := s.codec.set 0 c (Nat.succ_pos 2) } := setCodec_fin s 0 c

/-! ### The bit source -/

theorem exec_dataPopTxBit (s : State) :
    exec .dataPopTxBit s = .next (State.ok (dataPopTxBit s.begin).1 [bitWord (dataPopTxBit s.begin).2] []) := rfl

/-- A frame in progress goes on (R243). -/
theorem dataPopTxBit_busy (h : (s.codecAt lineCodec).bn ≠ 0#4) : dataPopTxBit s = frmPop lineCodec s :=
  if_neg (fun hidle => h hidle.1)

/-- An idle line with an empty queue sends mark (R243). -/
theorem dataPopTxBit_mark (hn : (s.codecAt lineCodec).bn = 0#4) (hq : s.txq.count = 0#7) : dataPopTxBit s = (s, true) := by
  have hempty : ¬ ((s.codecAt lineCodec).bn = 0#4 ∧ 0 < s.txq.count.toNat) := by simp [hq]
  rw [dataPopTxBit_eq, nextFrame, if_neg hempty, codec_pop_idle hn, setCodec_codecAt]

/-- The first bit of a loaded frame is its start bit (`spec/41_frame_codec.md` R161, R163). -/
theorem codec_pop_start {b : Byte} {c : Codec} (hf : c.bframe = frameBits b c.order) (hn : c.bn = 10#4) :
    c.pop = ({ c with bn := 9#4 }, false) := by
  have hbit : c.bframe.getLsbD 9 = false := hf ▸ (frameBits_ends b c.order).1
  rw [codec_pop_busy (by rw [hn]; decide), hn]
  exact congrArg _ hbit

/-- An idle line with a byte queued takes the oldest and sends its start bit (R243). -/
theorem dataPopTxBit_start (hn : (s.codecAt lineCodec).bn = 0#4) (hq : s.txq.count ≠ 0#7) :
    dataPopTxBit s =
      (State.setCodec { s with txq := { s.txq with head := s.txq.head + 1#6, count := s.txq.count - 1#7 } } lineCodec
        { s.codecAt lineCodec with
          bframe := frameBits (ramRead s.txq.mem s.txq.head.toNat) (s.codecAt lineCodec).order, bn := 9#4 }, false) := by
  have hpos : (s.codecAt lineCodec).bn = 0#4 ∧ 0 < s.txq.count.toNat := ⟨hn, by bv_omega⟩
  have hhead : BitVec.ofNat 6 ((s.txq.head.toNat + 1) % 64) = s.txq.head + 1#6 := by bv_omega
  rw [dataPopTxBit_eq, nextFrame, if_pos hpos, hhead]
  dsimp only
  rw [codec_pop_start (b := ramRead s.txq.mem s.txq.head.toNat) rfl rfl]

/-- `DATA_POP_TX_BIT` on an idle line with a byte queued (R245). -/
theorem exec_dataPopTxBit_start (hn : (s.codecAt lineCodec).bn = 0#4) (hq : s.txq.count ≠ 0#7) :
    exec .dataPopTxBit s = .next (State.answeredOk
      { s with
        codec := s.codec.set 0
          { s.codecAt lineCodec with
            bframe := frameBits (ramRead s.txq.mem s.txq.head.toNat) (s.codecAt lineCodec).order, bn := 9#4 }
          (Nat.succ_pos 2)
        txq := { s.txq with head := s.txq.head + 1#6, count := s.txq.count - 1#7 } } [0#32] [] []) := by
  rw [exec_dataPopTxBit, dataPopTxBit_start (s := s.begin) hn hq, setCodec_line]
  rfl

/-! ### The bit sink -/

theorem exec_dataPushRxBit (b : Bool) (s : State) :
    exec (.dataPushRxBit b) s = .next (State.ok (dataPushRxBit b s.begin) [] []) := rfl

/-- The parser gives its byte exactly on a stop bit 1 (`spec/41_frame_codec.md` R164). -/
theorem codec_push_byte_eq (c : Codec) (b : Bool) :
    (c.push b).2 = if c.pst = .stop ∧ b = true then some c.pacc else none := by
  split
  case isTrue h => exact (codec_push_byte c b c.pacc).mpr ⟨h.1, h.2, rfl⟩
  case isFalse h =>
    refine Option.eq_none_iff_forall_ne_some.mpr (fun v hv => h ?_)
    obtain ⟨hstop, hone, -⟩ := (codec_push_byte c b v).mp hv
    exact ⟨hstop, hone⟩

/-- The events of a received bit (R244). -/
def rxEvents (c : Codec) (b : Bool) : List Event := if c.pst = .stop ∧ b = true then [.rxByte c.pacc] else []

theorem rxEvents_eq (c : Codec) (b : Bool) : ((c.push b).2.map Event.rxByte).toList = rxEvents c b := by
  rw [codec_push_byte_eq, rxEvents]
  split <;> rfl

/-- `DATA_PUSH_RX_BIT` steps the `LINE` parser and reports its byte (R246). -/
theorem exec_dataPushRxBit_eq (b : Bool) (s : State) :
    exec (.dataPushRxBit b) s = .next
      ((s.setCodec lineCodec ((s.codecAt lineCodec).push b).1).answeredOk [] [] (rxEvents (s.codecAt lineCodec) b)) := by
  rw [exec_dataPushRxBit, dataPushRxBit_eq, ← rxEvents_eq]
  rfl

/-! ### The serial bit -/

/-- A bit that completes no byte steps the `DTE` parser alone (`spec/46_facade_host.md` R343). -/
theorem exec_serialBit_inside {b : Bool} (h : ¬ ((s.codecAt dteCodec).pst = .stop ∧ b = true)) :
    exec (.serialBit b) s = .next ((pushed 1 b s).answeredOk [] [] []) := by
  have hbyte : (frmPush dteCodec b s.begin).2 = none := (codec_push_byte_eq _ b).trans (if_neg h)
  change execSerialBit b s = _
  rw [execSerialBit, hbyte]
  rfl

/-- A bit that completes a byte: it is queued in the data phase, while there is room (`spec/46_facade_host.md` R343). -/
theorem exec_serialBit_byte (h : (s.codecAt dteCodec).pst = .stop) :
    exec (.serialBit true) s =
      answerOk (if s.callState = .data then txqOffer (frmPush dteCodec true s.begin).1 (s.codecAt dteCodec).pacc
        else (frmPush dteCodec true s.begin).1) [] [] := by
  have hbyte : (frmPush dteCodec true s.begin).2 = some (s.codecAt dteCodec).pacc :=
    (codec_push_byte_eq _ true).trans (if_pos ⟨h, rfl⟩)
  change execSerialBit true s = _
  rw [execSerialBit, hbyte]
  rfl

theorem txqOffer_full {b : Byte} (h : s.txq.count.toNat = 64) : txqOffer s b = s := by
  rw [txqOffer, (txqPut_eq_none s b).mpr h, Option.getD_none]

theorem txqOffer_put {b : Byte} (h : s.txq.count.toNat ≠ 64) : txqOffer s b = { s with txq := queued s.txq b } := by
  rw [txqOffer, (txqPut_eq_some s b _).mpr ⟨h, rfl⟩, Option.getD_some]
  rfl

end Sys2Proof.Proofs
end

section
/-! # The modulator (`spec/43_fsk_engine.md` R230, R231) -/

namespace Sys2Proof.Proofs

open Sys2Proof.Machine Sys2Proof.Laws

/-- A channel after one sample: the carrier moves by the increment of the bit being sent, the clock by that of the symbols
(R230). -/
def modNext (x : FskChannel) : FskChannel :=
  { x with modPh := x.modPh + (if x.modBit then x.inc1 else x.inc0), modClk := x.modClk + x.binc }

theorem chanAt_setChan_same (s : State) {c : Nat} (hc : c < 2) (x : FskChannel) : (s.setChan c x).chanAt c = x := by
  rw [chanAt_setChan, if_pos ⟨rfl, hc⟩]

section
variable {s : State} {c : Nat} (hscheme : s.fsk.scheme ≠ 0#8) (htxen : s.fsk.txen = true) (hc : s.fsk.txch.toNat = c)
include hscheme htxen hc

/-- A sample inside a symbol. -/
theorem modSample_inside (src : State → State × Bool) (hclk : (s.chanAt c).modClk.toNat + (s.chanAt c).binc.toNat < 2 ^ 32) :
    modSample src s = (s.setChan c (modNext (s.chanAt c)), word32 (sine (s.chanAt c).modPh)) := by
  have hon : ¬ (s.fsk.scheme = 0#8 ∨ s.fsk.txen = false) := by simp [hscheme, htxen]
  have hlt : c < 2 := hc ▸ s.fsk.txch.isLt
  rw [modSample, if_neg hon]
  dsimp only
  rw [hc, if_neg (not_le.mpr hclk), chanAt_setChan_same _ hlt, setChan_setChan, ← BitVec.add_def]
  rfl

/-- The sample that ends a symbol, from a bit source that neither reads nor writes the channel. -/
theorem modSample_wrap {src : State → State × Bool}
    (hsrc : ∀ u x, src (State.setChan u c x) = (State.setChan (src u).1 c x, (src u).2))
    (hclk : 2 ^ 32 ≤ (s.chanAt c).modClk.toNat + (s.chanAt c).binc.toNat) :
    modSample src s =
      (State.setChan (src s).1 c { modNext (s.chanAt c) with modBit := (src s).2 }, word32 (sine (s.chanAt c).modPh)) := by
  have hon : ¬ (s.fsk.scheme = 0#8 ∨ s.fsk.txen = false) := by simp [hscheme, htxen]
  have hlt : c < 2 := hc ▸ s.fsk.txch.isLt
  rw [modSample, if_neg hon]
  dsimp only
  rw [hc, if_pos hclk, hsrc]
  dsimp only
  rw [setChan_setChan, chanAt_setChan_same _ hlt, chanAt_setChan_same _ hlt, setChan_setChan,
    ← BitVec.add_def]
  rfl

end

/-- The data path's bit source neither reads nor writes the channels. -/
theorem dataPopTxBit_setChan (s : State) (c : Nat) (x : FskChannel) :
    dataPopTxBit (s.setChan c x) = ((dataPopTxBit s).1.setChan c x, (dataPopTxBit s).2) := by
  rw [dataPopTxBit_eq, dataPopTxBit_eq]
  rfl

/-- With no scheme or with transmission off `FSK_TX` gives zeros (R231). -/
theorem exec_fskTx_off {s : State} (h : s.fsk.scheme = 0#8 ∨ s.fsk.txen = false) (count : BitVec 16) :
    exec (.fskTx count) s = .next (s.answeredOk [] (List.replicate count.toNat 0#32) []) := by
  change execFskTx count s = _
  rw [execFskTx, synth_idle (modSample_off s.begin dataPopTxBit h)]
  rfl

theorem exec_fskTx_one (s : State) :
    exec (.fskTx 1#16) s = answerOk (modSample dataPopTxBit s.begin).1 [] [(modSample dataPopTxBit s.begin).2] := rfl

section
variable {s : State} {c : Fin 2} (hscheme : s.fsk.scheme ≠ 0#8) (htxen : s.fsk.txen = true)
  (hc : s.fsk.txch.toNat = c.val)
include hscheme htxen hc

/-- A sample inside a symbol writes its channel alone. -/
theorem exec_fskTx_inside (hclk : s.chan[c].modClk.toNat + s.chan[c].binc.toNat < 2 ^ 32) :
    exec (.fskTx 1#16) s = .next (State.answeredOk { s with chan := s.chan.set c (modNext s.chan[c]) c.isLt } []
      [word32 (sine s.chan[c].modPh)] []) := by
  rw [← chanAt_fin] at hclk ⊢
  rw [exec_fskTx_one, modSample_inside (s := s.begin) hscheme htxen hc _ hclk, setChan_fin]
  rfl

/-- The sample that ends a symbol takes the next bit from the data path. -/
theorem exec_fskTx_wrap (hclk : 2 ^ 32 ≤ s.chan[c].modClk.toNat + s.chan[c].binc.toNat) :
    exec (.fskTx 1#16) s = .next (State.answeredOk
      { (dataPopTxBit s.begin).1 with
        chan := s.chan.set c { modNext s.chan[c] with modBit := (dataPopTxBit s.begin).2 } c.isLt } []
      [word32 (sine s.chan[c].modPh)] []) := by
  have hchan : (dataPopTxBit s.begin).1.chan = s.chan := by simp
  have hresp : (dataPopTxBit s.begin).1.resp = Response.empty := by simp
  rw [← chanAt_fin] at hclk ⊢
  rw [exec_fskTx_one, modSample_wrap (s := s.begin) hscheme htxen hc (fun u x => dataPopTxBit_setChan u c x) hclk,
    setChan_fin, hchan, answerOk, ok_eq, hresp]
  rfl

end

end Sys2Proof.Proofs
end

section
/-! # The demodulator (`spec/43_fsk_engine.md` R233 to R237) -/

namespace Sys2Proof.Proofs

open Sys2Proof.Machine Sys2Proof.Laws

/-! ### The decision -/

/-- A correlation in the terms of R143: the dot product, scaled down and wrapped. -/
theorem circularCorrelate_eq (ref ring : Nat → Int) (len start : Nat) :
    circularCorrelate ref len ring start =
      (BitVec.ofInt 64 ((∑ i ∈ Finset.range len, ref i * ring ((start + i) % 512)) / 2 ^ 14)).toInt := by
  rw [circularCorrelate, foldl_range_add]
  rfl

/-- The decision in the terms of R235. -/
theorem decideBit_eq (est : Bool) (a b : Int) :
    decideBit est a b = if 0 < a ∧ 0 < b ∧ a ≠ b then decide (a < b) else est := by
  unfold decideBit
  by_cases hpos : 0 < a ∧ 0 < b
  · rcases lt_trichotomy a b with hlt | rfl | hgt
    · rw [if_pos hpos, if_pos hlt, if_pos ⟨hpos.1, hpos.2, hlt.ne⟩, decide_eq_true hlt]
    · simp
    · rw [if_pos hpos, if_neg hgt.not_gt, if_pos hgt, if_pos ⟨hpos.1, hpos.2, hgt.ne'⟩, decide_eq_false hgt.not_gt]
  · rw [if_neg hpos, if_neg (fun h => hpos ⟨h.1, h.2.1⟩)]

/-- A reference correlated with the window of a channel that starts at `st` (R143, R233). -/
def windowCorrelation (x : FskChannel) (st : Nat) (ref : Nat → Int) : Int :=
  (BitVec.ofInt 64
    ((∑ i ∈ Finset.range x.symlen.toNat, ref i * (ramRead x.ring ((st + i) % 512)).toInt) / 2 ^ 14)).toInt

/-- The confidence that the window of a channel gives the bit whose table is `t` (R234). -/
def windowConfidence (x : FskChannel) (t : IqTable) (st : Nat) : Int :=
  let i := windowCorrelation x st (fun n => (ramRead t.i n).toInt)
  let q := windowCorrelation x st (fun n => (ramRead t.q n).toInt)
  (BitVec.ofInt 64 (i * i + q * q)).toInt

theorem confidence_eq (s : State) (c v st : Nat) :
    confidence s c v st = windowConfidence (s.chanAt c) (s.iqAt (2 * c + v)) st := by
  simp only [confidence, circularCorrelate_eq]
  rfl

section
variable {s : State} {c : Nat} (h : ∀ a, ramRead (s.chanAt c).ring a = 0#32)
include h

/-- A window of zeros gives no confidence in either bit. -/
theorem confidence_silent (v st : Nat) : confidence s c v st = 0 := by
  have hcorr : ∀ ref : Nat → Int, windowCorrelation (s.chanAt c) st ref = 0 := fun ref => by
    simp [windowCorrelation, h]
  simp [confidence_eq, windowConfidence, hcorr]

/-- A window of zeros holds the estimate (R235). -/
theorem estimateBit_silent : estimateBit s c = (s.chanAt c).demEst := by
  rw [estimateBit, confidence_silent h, confidence_silent h]
  rfl

end

/-! ### The symbol clock -/

/-- The symbol clock after the realignment (R236). -/
def realigned (x : FskChannel) (est : Bool) : Word :=
  if est = x.demEst ∨ x.demClk = 0x80000000#32 then x.demClk
  else if x.demClk.toNat < 2 ^ 31 then x.demClk + 0x10000000#32
  else x.demClk - 0x10000000#32

theorem realigned_eq (x : FskChannel) (est : Bool) :
    (if est = x.demEst then x.demClk else nudge x.demClk) = realigned x est := by
  have hhalf : x.demClk = 0x80000000#32 ↔ x.demClk.toNat = 2 ^ 31 := BitVec.toNat_inj.symm
  have htoNat : (0x80000000#32).toNat = 2 ^ 31 := rfl
  unfold realigned nudge
  rw [half_eq, clkNudge_eq, htoNat]
  by_cases hest : est = x.demEst
  · rw [if_pos hest, if_pos (.inl hest)]
  · rw [if_neg hest]
    rcases Nat.lt_trichotomy x.demClk.toNat (2 ^ 31) with hlt | heq | hgt
    · rw [if_pos hlt, if_neg (not_or.mpr ⟨hest, fun h => hlt.ne (hhalf.mp h)⟩), if_pos hlt]
    · rw [if_neg heq.not_lt, if_neg heq.not_gt, if_pos (.inr (hhalf.mpr heq))]
    · rw [if_neg hgt.not_gt, if_pos hgt, if_neg (not_or.mpr ⟨hest, fun h => hgt.ne' (hhalf.mp h)⟩), if_neg hgt.not_gt]

theorem tick_eq (x : FskChannel) (est : Bool) :
    x.tick est =
      ({ x with demEst := est, demClk := realigned x est + x.binc },
        decide (2 ^ 32 ≤ (realigned x est).toNat + x.binc.toNat)) := by
  rw [FskChannel.tick, realigned_eq, ← BitVec.add_def]

theorem realigned_same {x : FskChannel} {est : Bool} (h : est = x.demEst) : realigned x est = x.demClk := if_pos (.inl h)

/-! ### One sample -/

/-- What a sample makes of the estimate of channel `c` (R233 to R235). -/
def newEstimate (s : State) (c : Nat) (x : Word) : Bool := estimateBit (s.setChan c ((s.chanAt c).store x)) c

/-- What a sample makes of channel `c`, and whether it ends a symbol (R233, R236). -/
def heard (s : State) (c : Nat) (x : Word) : FskChannel × Bool := ((s.chanAt c).store x).tick (newEstimate s c x)

/-- The estimate after a sample: the bit with the larger confidence, where both are positive and differ (R235). -/
theorem newEstimate_eq (s : State) {c : Nat} (hc : c < 2) (x : Word) :
    newEstimate s c x =
      let y := (s.chanAt c).store x
      let conf := fun v : Nat => windowConfidence y (s.iqAt (2 * c + v)) y.windowStart
      if 0 < conf 0 ∧ 0 < conf 1 ∧ conf 0 ≠ conf 1 then decide (conf 0 < conf 1) else y.demEst := by
  rw [newEstimate, estimateBit, decideBit_eq, confidence_eq, confidence_eq, chanAt_setChan_same s hc]
  rfl

/-- A sample of zero into a ring of zeros holds the estimate; here the clock does not wrap. -/
theorem heard_silent {s : State} {c : Nat} (hc : c < 2) {x : Word}
    (hstored : BitVec.ofInt 32 (asr (sampleInt x) (s.chanAt c).shift.toNat) = 0#32)
    (hring : ∀ a, ramRead (s.chanAt c).ring a = 0#32)
    (hclk : (s.chanAt c).demClk.toNat + (s.chanAt c).binc.toNat < 2 ^ 32) :
    heard s c x = ({ (s.chanAt c).store x with demClk := (s.chanAt c).demClk + (s.chanAt c).binc }, false) := by
  have hzero : ∀ a, ramRead ((s.chanAt c).store x).ring a = 0#32 := fun a => by
    rw [FskChannel.store, ramRead_ramWrite, hstored, hring, ite_self]
  have hest : newEstimate s c x = ((s.chanAt c).store x).demEst := by
    have hsame := chanAt_setChan_same s hc ((s.chanAt c).store x)
    rw [newEstimate, estimateBit_silent (hsame.symm ▸ hzero), hsame]
  rw [heard, tick_eq, realigned_same hest, hest]
  exact congrArg _ (decide_eq_false (not_le.mpr hclk))

theorem demSample_on {s : State} {c : Nat} (hscheme : s.fsk.scheme ≠ 0#8) (hc : s.fsk.rxch.toNat = c)
    (sink : Bool → State → State) (x : Word) :
    demSample sink x s =
      if (heard s c x).2 then sink (newEstimate s c x) (s.setChan c (heard s c x).1)
      else s.setChan c (heard s c x).1 := by
  have hlt : c < 2 := hc ▸ s.fsk.rxch.isLt
  rw [demSample, if_neg hscheme]
  dsimp only
  rw [hc, chanAt_setChan_same _ hlt, setChan_setChan]
  rfl

/-- With no scheme `FSK_RX` changes nothing (R237). -/
theorem exec_fskRx_off {s : State} (h : s.fsk.scheme = 0#8) (xs : List Word) :
    exec (.fskRx xs) s = .next (s.answeredOk [] [] []) := by
  have hsample : ∀ x, demSample dataPushRxBit x s.begin = s.begin := fun x => if_pos h
  have hblock : demBlock dataPushRxBit xs s.begin = s.begin := by
    induction xs with
    | nil => rfl
    | cons x xs ih => rwa [demBlock, List.foldl_cons, hsample]
  change execFskRx xs s = _
  rw [execFskRx, hblock]
  rfl

section
variable {s : State} {c : Fin 2} {x : Word} (hscheme : s.fsk.scheme ≠ 0#8) (hc : s.fsk.rxch.toNat = c.val)
include hscheme hc

theorem exec_fskRx_one :
    exec (.fskRx [x]) s = answerOk
      (if (heard s c x).2 then dataPushRxBit (newEstimate s c x) (s.begin.setChan c (heard s c x).1)
        else s.begin.setChan c (heard s c x).1) [] [] :=
  congrArg (answerOk · [] []) (demSample_on (s := s.begin) hscheme hc dataPushRxBit x)

/-- A sample inside a symbol. -/
theorem exec_fskRx_inside (h : (heard s c x).2 = false) :
    exec (.fskRx [x]) s = .next ((s.setChan c (heard s c x).1).answeredOk [] [] []) := by
  rw [exec_fskRx_one hscheme hc, h]
  rfl

/-- The sample that ends a symbol gives the estimate to the data path. -/
theorem exec_fskRx_wrap (h : (heard s c x).2 = true) :
    exec (.fskRx [x]) s = exec (.dataPushRxBit (newEstimate s c x)) (s.setChan c (heard s c x).1) := by
  rw [exec_fskRx_one hscheme hc, h]
  rfl

/-- A sample of zero into a ring of zeros: the ring and the clock go on, nothing else changes. -/
theorem exec_fskRx_silent (hstored : (BitVec.ofInt 32 (x.toInt / 2 ^ s.chan[c].shift.toNat) : Word) = 0#32)
    (hring : ∀ a, ramRead s.chan[c].ring a = 0#32) (hclk : s.chan[c].demClk.toNat + s.chan[c].binc.toNat < 2 ^ 32) :
    exec (.fskRx [x]) s = .next (State.answeredOk
      { s with
        chan := s.chan.set c
          { s.chan[c] with
            ring := ramWrite s.chan[c].ring s.chan[c].demWidx.toNat 0#32
            demWidx := s.chan[c].demWidx + 1#9
            demClk := s.chan[c].demClk + s.chan[c].binc } c.isLt } [] [] []) := by
  rw [← chanAt_fin] at hstored hring hclk ⊢
  have hheard := heard_silent c.isLt hstored hring hclk
  have hstore : (s.chanAt c).store x =
      { s.chanAt c with
        ring := ramWrite (s.chanAt c).ring (s.chanAt c).demWidx.toNat 0#32, demWidx := (s.chanAt c).demWidx + 1#9 } := by
    rw [← hstored]
    rfl
  rw [exec_fskRx_inside hscheme hc (congrArg Prod.snd hheard), hheard, setChan_fin, hstore]

/-- A sample writes its channel, the `LINE` codec and the response, and nothing else. -/
theorem exec_fskRx_frame :
    ∃ (line : Codec) (events : List Event), exec (.fskRx [x]) s = .next (State.answeredOk
      { s with
        chan := s.chan.set c (heard s c x).1 c.isLt
        codec := s.codec.set 0 line (Nat.succ_pos 2) } [] [] events) := by
  cases hend : (heard s c x).2 with
  | false =>
    have hline : s.codec.set 0 s.codec[(0 : Fin 3)] (Nat.succ_pos 2) = s.codec := Vector.set_getElem_self _
    refine ⟨s.codec[(0 : Fin 3)], [], ?_⟩
    rw [exec_fskRx_inside hscheme hc hend, setChan_fin, hline]
  | true =>
    refine ⟨((s.codecAt lineCodec).push (newEstimate s c x)).1, rxEvents (s.codecAt lineCodec) (newEstimate s c x), ?_⟩
    rw [exec_fskRx_wrap hscheme hc hend, exec_dataPushRxBit_eq, setCodec_line, setChan_fin]
    rfl

end

end Sys2Proof.Proofs
end

section
/-! # The obligations on the FSK engine and the data path -/

namespace Sys2Proof.Proofs

open Sys2Proof.Machine Sys2Proof.Laws

/-- Settles O39: a selection clears everything, then sets up each channel that the scheme has. -/
theorem fskSelectResult : Obligations.FskSelectResult := by
  unfold Obligations.FskSelectResult
  intro id s h
  have hid : (if id = 0#8 then 0 else id.toNat) = id.toNat := by
    split
    case isTrue h0 => rw [h0]; rfl
    case isFalse => rfl
  rw [hid]
  dsimp only
  refine ⟨_, _, exec_fskSelect_eq h, fun c => ?_, fun c v t ht => ?_⟩
  · rw [fskSelect_chan]
    by_cases hc : c.val < (schemeDesc id.toNat).nch
    · simp only [if_pos hc]
      rfl
    · simp only [if_neg hc]
      rfl
  · have hchan : t.val / 2 = c.val := by omega
    have hfreq : tableFreq (schemeDesc id.toNat) t.val =
        if v.val = 0 then ((schemeDesc id.toNat).chan c.val).f0 else ((schemeDesc id.toNat).chan c.val).f1 := by
      rw [tableFreq, hchan, show t.val % 2 = v.val by omega]
    rw [fskSelect_iq, hchan, ← hfreq]
    by_cases hc : c.val < (schemeDesc id.toNat).nch
    · simp only [if_pos hc]
      refine ⟨?_, fun n => ?_⟩
      · rw [begin_srate, channelTable_len (usable_of_channel h hc) (hchan ▸ hc), hchan]
        rfl
      · rw [channelTable, ramRead_build_i, ramRead_build_q, hchan]
        exact ⟨rfl, rfl⟩
    · simp only [if_neg hc]
      exact ⟨rfl, fun n => ⟨rfl, rfl⟩⟩

/-- Settles O42: the window decides, the clock ticks, and a symbol's end is one bit into the data path. -/
theorem fskReceiveSample : Obligations.FskReceiveSample := by
  unfold Obligations.FskReceiveSample
  refine ⟨fun xs s h => exec_fskRx_off h xs, fun x c s hscheme hc => ?_⟩
  intro r stored
  have hr : s.chanAt c = r := chanAt_fin s c
  refine ⟨?_, exec_fskRx_silent hscheme hc, ?_⟩
  · obtain ⟨line, events, hexec⟩ := exec_fskRx_frame (x := x) hscheme hc
    rw [heard, hr] at hexec
    exact ⟨_, _, _, line, events, hexec, fun a => ramRead_ramWrite ..⟩
  · intro s1 est k s2 start corr conf clk
    have hest : newEstimate s c x = est := by rw [newEstimate, hr, setChan_fin]
    have hk : heard s c x = k := by rw [heard, hest, hr]
    have hs2 : s.setChan c k.1 = s2 := setChan_fin s c k.1
    have htick : k = ({ r.store x with demEst := est, demClk := clk + r.binc },
        decide (2 ^ 32 ≤ clk.toNat + r.binc.toNat)) := tick_eq (r.store x) est
    have hring : s1.chan[c] = r.store x := Vector.getElem_set_self _
    have hconf : conf = fun v =>
        windowConfidence (r.store x) (s.iqAt (2 * c.val + v)) (r.store x).windowStart := by
      simp only [conf, corr, hring]
      rfl
    refine ⟨?_, rfl, congrArg (fun y => y.1.demClk) htick, congrArg Prod.snd htick, fun hend => ?_, fun hend => ?_⟩
    · clear_value conf
      subst hconf
      rw [← hest, newEstimate_eq s c.isLt, hr]
      rfl
    · rw [← hs2, ← hk, exec_fskRx_inside hscheme hc (hk ▸ hend)]
    · refine ⟨_, exec_dataPushRxBit_eq est s2, ?_⟩
      rw [exec_fskRx_wrap hscheme hc (hk ▸ hend), hest, hk, hs2, exec_dataPushRxBit_eq]
      rfl

/-- Settles O40: the two selections by whether the scheme has the channel. -/
theorem fskChannelOps : Obligations.FskChannelOps := by
  unfold Obligations.FskChannelOps
  refine fun s => ⟨fun c => ⟨reads_of_encode rfl rfl, reads_of_encode rfl rfl⟩, reads_of_encode rfl rfl,
    reads_of_encode rfl rfl, fun c => rfl, fun c => rfl, fun e => rfl⟩

/-- Settles O41: inside a symbol, and at its end, where the bit source keeps the channels. -/
theorem fskTransmitSample : Obligations.FskTransmitSample := by
  unfold Obligations.FskTransmitSample
  refine ⟨fun count s h => exec_fskTx_off h count, fun c s hscheme htxen hc => ?_⟩
  dsimp only
  refine ⟨exec_fskTx_inside hscheme htxen hc, fun hclk => ⟨_, exec_dataPopTxBit s, ?_⟩, fun hclk hn hq => ?_⟩
  · rw [exec_fskTx_wrap hscheme htxen hc hclk, decide_ok_results]
    rfl
  · rw [← codecAt_line] at hn
    rw [exec_fskTx_wrap hscheme htxen hc hclk, dataPopTxBit_mark (s := s.begin) hn hq]
    rfl

/-- Settles O44: the source by what the line and the queue hold, the sink by what the parser gives. -/
theorem dataBits : Obligations.DataBits := by
  unfold Obligations.DataBits
  intro s
  dsimp only
  rw [← codecAt_line]
  refine ⟨reads_of_encode rfl rfl, reads_of_encode rfl rfl, reads_of_encode rfl rfl, fun hn => ?_, fun hn hq => ?_,
    fun hn hq => ⟨_, exec_dataPopTxBit_start hn hq, fun i => ?_⟩,
    fun b => ⟨pushed 0 b s, exec_frmPush 0 b s, exec_dataPushRxBit_eq b s⟩⟩
  · rw [exec_dataPopTxBit, dataPopTxBit_busy (s := s.begin) hn]
    rfl
  · rw [exec_dataPopTxBit, dataPopTxBit_mark (s := s.begin) hn hq]
    rfl
  · rw [frameBits_data _ _ i.isLt]
    cases (s.codecAt lineCodec).order <;> rfl

/-- Settles O56: a completed byte goes into the queue or is dropped. -/
theorem serialBit : Obligations.SerialBit := by
  unfold Obligations.SerialBit
  intro b s
  rw [← codecAt_dte]
  refine ⟨pushed 1 b s, exec_frmPush 1 b s, fun h => ?_, fun hstop hb hcall hroom => ?_⟩
  · by_cases hbyte : (s.codecAt dteCodec).pst = .stop ∧ b = true
    · obtain ⟨hstop, rfl⟩ := hbyte
      have hdrop : s.callState ≠ .data ∨ s.txq.count.toNat = 64 := by simpa [hstop] using h
      rw [exec_serialBit_byte hstop]
      rcases hdrop with hcall | hfull
      · rw [if_neg hcall]
        rfl
      · rw [txqOffer_full (by exact hfull), ite_self]
        rfl
    · exact exec_serialBit_inside hbyte
  · subst hb
    refine ⟨_, exec_txByte_put (s := pushed 1 true s) hroom, ?_⟩
    rw [exec_serialBit_byte hstop, if_pos hcall, txqOffer_put (by exact hroom)]
    rfl

end Sys2Proof.Proofs
end

section
/-! # Capability sets: their items and the operations on them (`spec/44_v8_engine.md` R268, R269, R274, R275) -/

namespace Sys2Proof.Proofs

open Sys2Proof.Machine Sys2Proof.Laws

/-! ### The items of a set -/

theorem mem_ramTake {w : Nat} (m : Ram w) (n : Nat) (v : BitVec w) : v ∈ ramTake m n ↔ ∃ j, j < n ∧ ramRead m j = v := by
  simp [ramTake]

theorem capWords_ramTake (m : Ram 8) (n : BitVec 5) :
    capWords (ramTake m n.toNat) =
      n.setWidth 32 :: (List.range n.toNat).map (fun j => (ramRead m j).setWidth 32) := by
  rw [capWords, ramTake_length, BitVec.ofNat_toNat, ramTake, List.map_map]
  rfl

/-! ### `V8_ADD_CAP` -/

theorem exec_v8AddCap_refused {item : Byte} {s : State} (h : capAccepts (txItems s) item = false) :
    exec (.v8AddCap item) s = .next (s.answered .fail [] [] []) := by
  have hadd : txCapAdd item s.begin = none := if_neg (Bool.not_eq_true _ ▸ h)
  change execV8AddCap item s = _
  rw [execV8AddCap, hadd, answerFail_eq]

theorem exec_v8AddCap_accepted {item : Byte} {s : State} (h : capAccepts (txItems s) item = true) :
    exec (.v8AddCap item) s = .next (State.answeredOk
      { s with v8 := { s.v8 with txcaps := ramWrite s.v8.txcaps s.v8.ntx.toNat item, ntx := s.v8.ntx + 1#5 } } [] [] []) := by
  have hadd := (txCapAdd_eq_some s.begin item _).mpr ⟨h, rfl⟩
  change execV8AddCap item s = _
  rw [execV8AddCap, hadd]
  rfl

/-- Which items the transmit set takes, read from its words and its count (R268). -/
theorem capAccepts_txItems_iff (s : State) (item : Byte) :
    capAccepts (txItems s) item = true ↔
      itemValid item = true ∧ (∀ j, j < s.v8.ntx.toNat → ramRead s.v8.txcaps j ≠ item) ∧ s.v8.ntx ≠ 16#5 := by
  have hcount : s.v8.ntx.toNat ≠ 16 ↔ s.v8.ntx ≠ 16#5 := not_congr (BitVec.toNat_inj (y := 16#5))
  rw [capAccepts_iff, txItems, ramTake_length, mem_ramTake, hcount]
  push Not
  rfl

end Sys2Proof.Proofs
end

section
/-! # Phases and sessions of the V.8 engine (`spec/44_v8_engine.md` R262 to R266) -/

namespace Sys2Proof.Proofs

open Sys2Proof.Machine Sys2Proof.Laws

/-! ### The `V8` codec -/

theorem codecAt_v8Codec (s : State) : s.codecAt v8Codec = s.codec[(2 : Fin 3)] := codecAt_fin s 2

theorem setCodec_v8Codec (s : State) (c : Codec) :
    s.setCodec v8Codec c = { s with codec := s.codec.set 2 c (Nat.lt_succ_self 2) } := setCodec_fin s 2 c

theorem frmReset_v8Codec (s : State) :
    frmReset v8Codec s = { s with codec := s.codec.set 2 s.codec[(2 : Fin 3)].clear (Nat.lt_succ_self 2) } := by
  rw [frmReset, codecAt_v8Codec, setCodec_v8Codec]

/-! ### Phase changes -/

/-- The event of a phase change, if it is one (R262). -/
def phaseEvents (old new : Phase) : List Event := if old = new then [] else [.v8State old new]

/-- All that setting a phase other than `NEGOTIATED` does (R262). -/
theorem v8Set_plain {p : Phase} (hn : p ≠ .negotiated) (s : State) :
    v8Set p s =
      { s with
        v8 := { s.v8 with phase := p }
        resp := { s.resp with events := s.resp.events ++ phaseEvents s.v8.phase p } } := by
  by_cases h : s.v8.phase = p
  · subst h
    rw [v8Set_same s rfl, phaseEvents, if_pos rfl, List.append_nil]
  · rw [v8Set_change s h hn, phaseEvents, if_neg h]
    rfl

theorem exec_v8Stop (s : State) :
    exec .v8Stop s = .next (State.answeredOk { s with v8 := { s.v8 with phase := .stopped } } [] []
      (phaseEvents s.v8.phase .stopped)) := by
  change answerOk (v8Set .stopped s.begin) [] [] = _
  rw [v8Set_plain (by decide)]
  rfl

/-! ### Sessions -/

/-- The state with the session begun in a role and its first phase (R263, R264). -/
def sessionBegun (role : Role) (phase : Phase) (s : State) : State :=
  { s with
    v8 := { s.v8 with
      phase := phase, role := role, nrx := 0#5, rxlen := 0#5, ck := 0#32, ckv := false, outlen := 0#5, cursor := 0#16,
      sync := 0x3FF#10, zrun := 0#2 }
    codec := s.codec.set 2 s.codec[(2 : Fin 3)].clear (Nat.lt_succ_self 2) }

/-- The response with the event of a phase change (R262). -/
def withPhaseEvents (r : Response) (old new : Phase) : Response := { r with events := r.events ++ phaseEvents old new }

theorem v8Start_send (tone : Byte) (s : State) :
    v8Start .send tone s = toneStart tone 0#32 16384#32 0xFFFF#16
      { sessionBegun .send .txAns s with resp := withPhaseEvents s.resp s.v8.phase .txAns } := by
  simp only [v8Start, v8SessionClear]
  rw [frmReset_v8Codec, v8Set_plain (by decide)]
  rfl

/-- Configuring the classifier of two states with the same rate and bank leaves the same bank. -/
theorem gz_configured_congr {ids : List Nat} (ha : (subsetA ids).length ≤ 8) {s t : State} (hrate : t.srate = s.srate)
    (hgz : t.gz = s.gz) : (configured ids t).gz = (configured ids s).gz := by
  ext u hu
  have ht := gz_configured ha t ⟨u, hu⟩
  have hs := gz_configured ha s ⟨u, hu⟩
  rw [hrate, hgz] at ht
  exact ht.trans hs.symm

theorem v8Start_listen (tone : Byte) (s : State) :
    v8Start .listen tone s =
      { sessionBegun .listen .rxAns s with
        det := (configured listenIds s).det, gz := (configured listenIds s).gz
        resp := withPhaseEvents s.resp s.v8.phase .rxAns } := by
  have hcfg : ∀ t : State, detCfg listenIds t = some (configured listenIds t) :=
    fun t => (detCfg_eq_some t listenIds _).mpr ⟨by decide, by decide, rfl⟩
  have hgz : ∀ t : State, t.srate = s.srate → t.gz = s.gz → (configured listenIds t).gz = (configured listenIds s).gz :=
    fun t => gz_configured_congr (by decide)
  have hdet : (configured listenIds s).det = detRegs listenIds (subsetA listenIds) (subsetB listenIds) := by
    rw [configured_eq]
  simp only [v8Start, v8SessionClear, frmReset_v8Codec, hcfg, Option.getD_some]
  rw [configured_eq, hgz _ rfl rfl, v8Set_plain (by decide), ← hdet]
  rfl

/-- A tone that has samples is loaded and left at that (`spec/42_tone_engine.md` R181, R182). -/
theorem toneStart_loaded {id : Byte} {gain : Word} {so : BitVec 16} {s : State}
    (h : (toneDesc id.toNat).playMs = 0 ∨ msToSamples s.srate (toneDesc id.toNat).playMs ≠ 0#32) :
    toneStart id 0#32 gain so s = toneLoad id 0#32 gain so s := by
  refine toneSettle_unspent _ (not_spent_of_budget ?_)
  rw [toneLoad_tone, toneLoadRegs, budget_eq, totalBudget_getD, totalBudget_isSome]
  rcases h with h | h
  · simp [h]
  · by_cases hplay : (toneDesc id.toNat).playMs = 0 <;> simp [hplay, h]

theorem toneLoadRegs_active (srate : Word) (id : Byte) (total gain : Word) (so : BitVec 16) :
    (toneLoadRegs srate id total gain so).active = true := by
  rw [toneLoadRegs, budget_eq]

/-- `V8_START SEND` of a tone that it takes and that has samples (R265). -/
theorem exec_v8Start_send {tone : BitVec 16} {s : State} (h : failCause (.v8Start .send tone) s = false)
    (hsamples : (toneDesc tone.toNat).playMs = 0 ∨ msToSamples s.srate (toneDesc tone.toNat).playMs ≠ 0#32) :
    exec (.toneStart (tone.setWidth 8) 0xFFFF#16 0#32 16384#32) s =
      answerOk (toneLoad (tone.setWidth 8) 0#32 16384#32 0xFFFF#16 s.begin) [] [] ∧
    exec (.v8Start .send tone) s =
      .next (State.answeredOk (toneLoad (tone.setWidth 8) 0#32 16384#32 0xFFFF#16 (sessionBegun .send .txAns s)) [] []
        (phaseEvents s.v8.phase .txAns)) := by
  simp only [failCause, Bool.or_eq_false_iff, decide_eq_false_iff_not, Nat.not_lt, Bool.not_eq_false'] at h
  obtain ⟨⟨hbyte, hvalid⟩, husable⟩ := h
  have hid : (tone.setWidth 8).toNat = tone.toNat := by
    rw [BitVec.toNat_setWidth]
    exact Nat.mod_eq_of_lt (by omega)
  have hload : ∀ t : State, t.srate = s.srate → toneStart (tone.setWidth 8) 0#32 16384#32 0xFFFF#16 t =
      toneLoad (tone.setWidth 8) 0#32 16384#32 0xFFFF#16 t :=
    fun t hrate => toneStart_loaded (by rwa [hid, hrate])
  constructor
  · rw [exec_toneStart (by simp [failCause, hid, hvalid]), hload s.begin rfl]
  · change execV8Start .send tone s = _
    rw [execV8Start, if_neg (by simp), if_neg (by simp [hbyte, hvalid]), if_neg (by simp [husable]), v8Start_send,
      hload { sessionBegun .send .txAns s.begin with resp := _ } rfl]
    rfl

/-- The words that `DET_CFG` takes for the two candidates of the `LISTEN` role. -/
theorem exec_detCfg_listen (s : State) :
    exec (.detCfg [0x13#32, 0x17#32]) s = .next (State.ok (configured listenIds s.begin) [] []) := by
  have hok : failCause (.detCfg [0x13#32, 0x17#32]) s = false := by
    change failCause (.detCfg [0x13#32, 0x17#32]) State.reset = false
    decide
  have hids : [0x13#32, 0x17#32].map BitVec.toNat = listenIds := rfl
  rw [exec_detCfg hok, hids, answerOk]

/-- `V8_START LISTEN` at a rate that V21 is usable at (R265): `u` is what `DET_CFG` of the two candidates leaves. -/
theorem exec_v8Start_listen {s u : State} (h : failCause (.v8Start .listen 0#16) s = false)
    (hu : u = State.ok (configured listenIds s.begin) [] []) :
    exec (.v8Start .listen 0#16) s = .next (State.answeredOk
      { sessionBegun .listen .rxAns s with det := u.det, gz := u.gz } [] [] (phaseEvents s.v8.phase .rxAns)) := by
  have husable : ¬ schemeUsable s.srate Config.v8Scheme.toNat = false := by
    simpa [failCause] using h
  have hdet : (configured listenIds s.begin).det = u.det := by rw [hu, ok_det]
  have hgz : (configured listenIds s.begin).gz = u.gz := by rw [hu, ok_gz]
  change execV8Start .listen 0#16 s = _
  rw [execV8Start, if_neg (by simp), if_neg (by simp), if_neg husable, v8Start_listen, hdet, hgz]
  rfl

end Sys2Proof.Proofs
end

section
/-! # What a selection reads, and the negotiated hook (`spec/43_fsk_engine.md` R224, `spec/46_facade_host.md` R340) -/

namespace Sys2Proof.Proofs

open Sys2Proof.Machine Sys2Proof.Laws

/-! ### A selection in another state -/

/-- The two states agree on everything that a scheme selection reads (R223, R224). -/
structure SelectsAlike (s t : State) : Prop where
  srate : t.srate = s.srate
  txen : t.fsk.txen = s.fsk.txen
  iq : t.iq = s.iq
  codec : t.codec = s.codec
  txq : t.txq = s.txq

/-- A selection writes the same values in two states that agree on what it reads. -/
theorem fskSelect_congr (id : Byte) {s t : State} (h : SelectsAlike s t) :
    fskSelect id t = t.withFskOf (fskSelect id s) := by
  have hfsk : (fskSelect id t).fsk = (fskSelect id s).fsk := by rw [fskSelect_fsk_desc, fskSelect_fsk_desc, h.txen]
  have hiq : (fskSelect id t).iq = (fskSelect id s).iq := by
    ext k hk
    have ht := fskSelect_iq id t ⟨k, hk⟩
    rw [h.srate, h.iq] at ht
    exact ht.trans (fskSelect_iq id s ⟨k, hk⟩).symm
  have hchan : (fskSelect id t).chan = (fskSelect id s).chan := by
    ext c hc
    have ht := fskSelect_chan id t ⟨c, hc⟩
    rw [h.srate] at ht
    exact ht.trans (fskSelect_chan id s ⟨c, hc⟩).symm
  have hcodec : (fskSelect id t).codec = (fskSelect id s).codec := by
    rw [fskSelect_codec, fskSelect_codec]
    simp only [frmReset, State.codecAt, State.setCodec, h.codec]
  have htxq : (fskSelect id t).txq = (fskSelect id s).txq := by rw [fskSelect_txq, fskSelect_txq, h.txq]
  rw [fskSelect_eq_withFskOf, State.withFskOf, hfsk, hiq, hchan, hcodec, htxq]
  rfl

/-- A selection leaves the `V8` codec (R223). -/
theorem fskSelect_codec_v8 (id : Byte) (s : State) : (fskSelect id s).codec[(2 : Fin 3)] = s.codec[(2 : Fin 3)] := by
  have hline : (frmReset lineCodec s).codecAt 2 = s.codecAt 2 := by
    rw [frmReset, codecAt_setCodec, if_neg (by decide)]
  rw [fskSelect_codec]
  exact (codecAt_fin _ 2).symm.trans (hline.trans (codecAt_fin s 2))

/-! ### The negotiated hook -/

/-- The hook selects the data scheme if it can be selected and no scheme if not: `FSK_SELECT` takes it (R340). -/
theorem dataSchemeId_selectable (s : State) :
    s.dataSchemeId = 0#8 ∨ schemeUsable s.srate s.dataSchemeId.toNat = true := by
  unfold State.dataSchemeId
  split
  case isTrue h => exact .inr h
  case isFalse => exact .inl rfl

theorem exec_fskSelect_dataScheme {s u : State} (h : u.srate = s.srate) :
    exec (.fskSelect s.dataSchemeId) u = .next (State.ok (fskSelect s.dataSchemeId u.begin) [] []) :=
  exec_fskSelect (h ▸ dataSchemeId_selectable s)

/-- Only what a selection writes is taken over from the other state. -/
theorem dataPhase_ok (s d : State) (r y : List Word) : s.dataPhase (d.ok r y) = s.dataPhase d := rfl

/-- The directions of the data phase in the terms of R340. -/
theorem dataDirections_eq (s : State) :
    dataDirections s =
      { s with fsk := { s.fsk with
        txch := if s.fsk.nch = 2#2 ∧ s.v8.role = .send then 1#1 else s.fsk.txch
        rxch := if s.fsk.nch = 2#2 ∧ s.v8.role = .send then 0#1 else s.fsk.rxch } } := by
  unfold dataDirections
  split
  case isTrue hroles => rfl
  case isFalse hroles => rfl

/-- All that the hook does in call state `V8`: `s` agrees on what a selection reads (R340, R341). -/
theorem negotiatedHook_v8 {s t : State} (h : t.callState = .v8) (hs : SelectsAlike s t) :
    negotiatedHook t =
      { t.dataPhase (fskSelect t.dataSchemeId s) with
        resp := { t.resp with events := t.resp.events ++ [.timerReq .preData] } } := by
  have hselect : selectDataScheme { t with callState := .data } =
      State.withFskOf { t with callState := .data } (fskSelect t.dataSchemeId s) :=
    fskSelect_congr t.dataSchemeId (t := { t with callState := .data }) ⟨hs.srate, hs.txen, hs.iq, hs.codec, hs.txq⟩
  generalize fskSelect t.dataSchemeId s = d at hselect ⊢
  unfold negotiatedHook
  rw [if_neg (not_not.mpr h), hselect, dataDirections_eq]
  rfl

/-- The change to `NEGOTIATED` outside call state `V8`. -/
theorem v8Set_negotiated_outside {t : State} (hp : t.v8.phase ≠ .negotiated) (hc : t.callState ≠ .v8) :
    v8Set .negotiated t =
      { t with
        v8 := { t.v8 with phase := .negotiated }
        resp := { t.resp with events := t.resp.events ++ [.v8State t.v8.phase .negotiated] } } := by
  rw [v8Set_negotiated t hp]
  exact negotiatedHook_outside _ hc

/-- The change to `NEGOTIATED` in call state `V8`, which the data phase follows. -/
theorem v8Set_negotiated_data {s t : State} (hp : t.v8.phase ≠ .negotiated) (hc : t.callState = .v8)
    (hs : SelectsAlike s t) :
    v8Set .negotiated t =
      { t.dataPhase (fskSelect t.dataSchemeId s) with
        v8 := { t.v8 with phase := .negotiated }
        resp := { t.resp with
          events := t.resp.events ++ [.v8State t.v8.phase .negotiated, .timerReq .preData] } } := by
  have hhook := negotiatedHook_v8
    (t := State.emit { t with v8 := { t.v8 with phase := .negotiated } } (.v8State t.v8.phase .negotiated)) hc
    ⟨hs.srate, hs.txen, hs.iq, hs.codec, hs.txq⟩
  rw [v8Set_negotiated t hp, hhook]
  simp only [State.emit, List.append_assoc, List.cons_append, List.nil_append]
  rfl

end Sys2Proof.Proofs
end

section
/-! # A received bit that completes no marker (`spec/44_v8_engine.md` R280, R282, R291) -/

namespace Sys2Proof.Proofs

open Sys2Proof.Machine Sys2Proof.Laws

/-! ### Taking a bit -/

/-- The phases in which menus are received (R280). -/
def menuPhase (p : Phase) : Prop := p = .sentAnsam ∨ p = .sentCm ∨ p = .waitCm ∨ p = .sentJm

theorem menuPhase_ne_negotiated {p : Phase} (h : menuPhase p) : p ≠ .negotiated := by
  rcases h with rfl | rfl | rfl | rfl <;> decide

theorem v8PushRxBit_menu {s : State} (h : menuPhase s.v8.phase) (b : Bool) : v8PushRxBit b s = v8TakeBit b s := by
  unfold v8PushRxBit
  rcases h with h | h | h | h <;> rw [h]

/-- The shift register with the bit taken in (R280). -/
def syncNext (v : V8Regs) (b : Bool) : BitVec 10 := (v.sync <<< 1) ||| (if b then 1#10 else 0#10)

/-- The start of the operation with the shift register moved. -/
def shifted (b : Bool) (s : State) : State := { s.begin with v8 := { s.v8 with sync := syncNext s.v8 b } }

theorem exec_v8PushRxBit_marker {s : State} {b : Bool} (h : menuPhase s.v8.phase) (hsync : syncNext s.v8 b = 0x00F#10) :
    exec (.v8PushRxBit b) s = answerOk (v8Marker (shifted b s)) [] [] := by
  change answerOk (v8PushRxBit b s.begin) [] [] = _
  rw [v8PushRxBit_menu (s := s.begin) h]
  exact congrArg (answerOk · [] []) (if_pos hsync)

theorem exec_v8PushRxBit_frame {s : State} {b : Bool} (h : menuPhase s.v8.phase) (hsync : syncNext s.v8 b ≠ 0x00F#10) :
    exec (.v8PushRxBit b) s = answerOk (v8FrameBit b (shifted b s)) [] [] := by
  change answerOk (v8PushRxBit b s.begin) [] [] = _
  rw [v8PushRxBit_menu (s := s.begin) h]
  exact congrArg (answerOk · [] []) (if_neg hsync)

/-! ### A bit of a frame -/

/-- The zero run after a byte (R282). -/
def zrunNext (z : BitVec 2) (byte : Byte) : BitVec 2 := if byte = 0#8 then BitVec.ofNat 2 (min (z.toNat + 1) 3) else 0#2

/-- The buffer with a byte stored behind the others, while there is room (R282). -/
def bufferNext (v : V8Regs) (byte : Byte) : Ram 8 :=
  if v.rxlen.toNat < 16 then ramWrite v.rxbuf v.rxlen.toNat byte else v.rxbuf

theorem ramRead_bufferNext (v : V8Regs) (byte : Byte) (a : Nat) :
    ramRead (bufferNext v byte) a =
      if a = v.rxlen.toNat ∧ v.rxlen.toNat < 16 then byte else ramRead v.rxbuf a := by
  unfold bufferNext
  by_cases hroom : v.rxlen.toNat < 16
  · simp only [hroom, and_true, if_true, ramRead_ramWrite]
  · simp only [hroom, and_false, if_false]

/-- The V.8 registers after a byte of the received menu (R282). -/
def byteTaken (v : V8Regs) (byte : Byte) : V8Regs :=
  { v with
    zrun := zrunNext v.zrun byte, rxbuf := bufferNext v byte,
    rxlen := if v.rxlen.toNat < 16 then v.rxlen + 1#5 else v.rxlen }

theorem v8StoreByte_eq (byte : Byte) (s : State) : v8StoreByte byte s = { s with v8 := byteTaken s.v8 byte } := by
  have hcap : Config.menuCap = 16 := menuCap_eq
  unfold v8StoreByte byteTaken bufferNext
  dsimp only
  by_cases hroom : s.v8.rxlen.toNat < 16
  · rw [if_pos (hcap ▸ hroom), if_pos hroom, if_pos hroom]
    rfl
  · rw [if_neg (hcap ▸ hroom), if_neg hroom, if_neg hroom]
    rfl

/-- The received bit in the `V8` parser (`spec/41_frame_codec.md` R164). -/
def parserStepped (b : Bool) (s : State) : State := s.setCodec v8Codec ((s.codecAt v8Codec).push b).1

/-- A bit that ends no complete frame. -/
theorem v8FrameBit_inside {s : State} {b : Bool} (h : ¬ ((s.codecAt v8Codec).pst = .stop ∧ b = true)) :
    v8FrameBit b s = parserStepped b s := by
  have hbyte : (frmPush v8Codec b s).2 = none := (codec_push_byte_eq _ b).trans (if_neg h)
  unfold v8FrameBit
  dsimp only
  rw [hbyte]
  rfl

/-- The state with the byte of a complete frame taken, before what it may end. -/
def byteStored (s : State) : State :=
  { parserStepped true s with v8 := byteTaken s.v8 (s.codecAt v8Codec).pacc }

/-- The stop bit of a complete frame: its byte is taken, and the third zero byte in `SENT_JM` ends the exchange. -/
theorem v8FrameBit_byte {s : State} (h : (s.codecAt v8Codec).pst = .stop) :
    v8FrameBit true s =
      if (byteStored s).v8.phase = .sentJm ∧ (byteStored s).v8.zrun = 3#2 then v8Set .negotiated (byteStored s)
      else byteStored s := by
  have hbyte : (frmPush v8Codec true s).2 = some (s.codecAt v8Codec).pacc :=
    (codec_push_byte_eq _ true).trans (if_pos ⟨h, rfl⟩)
  have hthree : ∀ z : BitVec 2, z.toNat = 3 ↔ z = 3#2 := fun z => BitVec.toNat_inj (y := 3#2)
  unfold v8FrameBit
  dsimp only
  rw [hbyte]
  simp only [v8StoreByte_eq, v8ZeroFrames_eq, hthree]
  rfl

/-- A mark bit on an idle parser (`spec/41_frame_codec.md` R164). -/
theorem v8FrameBit_mark {s : State} (h : (s.codecAt v8Codec).pst = .idle) : v8FrameBit true s = s := by
  rw [v8FrameBit_inside (by simp [h]), parserStepped, codec_push_mark h, setCodec_codecAt]

end Sys2Proof.Proofs
end

section
/-! # Parsing a received menu into the receive set (`spec/44_v8_engine.md` R268, R272) -/

namespace Sys2Proof.Proofs

open Sys2Proof.Machine Sys2Proof.Laws

/-- An accepted item is stored behind the others and counted (R268). -/
def rxAppended (i : Byte) (s : State) : State :=
  { s with v8 := { s.v8 with rxcaps := ramWrite s.v8.rxcaps s.v8.nrx.toNat i, nrx := s.v8.nrx + 1#5 } }

theorem rxCapAdd_accepted {i : Byte} {s : State} (h : capAccepts (rxItems s) i = true) : rxCapAdd s i = rxAppended i s :=
  if_pos h

theorem rxCapAdd_refused {i : Byte} {s : State} (h : ¬ capAccepts (rxItems s) i = true) : rxCapAdd s i = s := if_neg h

/-- What offering the items `l` to the receive set makes of a state. -/
structure Parsed (s : State) (l : List Byte) (p : State) : Prop where
  frame : p = { s with v8 := { s.v8 with nrx := p.v8.nrx, rxcaps := p.v8.rxcaps } }
  count : p.v8.nrx.toNat ≤ 16
  keeps : rxItems s <+: rxItems p
  nodup : (rxItems s).Nodup → (rxItems p).Nodup
  offered : ∀ i ∈ rxItems p, i ∈ rxItems s ∨ (itemValid i = true ∧ i ∈ l)
  full : p.v8.nrx = 16#5 ∨ ∀ i ∈ l, itemValid i = true → i ∈ rxItems p
  behind : ∀ a : Nat, p.v8.nrx.toNat ≤ a → ramRead p.v8.rxcaps a = ramRead s.v8.rxcaps a

theorem parsed_nil {s : State} (h : s.v8.nrx.toNat ≤ 16) : Parsed s [] s where
  frame := rfl
  count := h
  keeps := List.prefix_refl _
  nodup hs := hs
  offered _ hi := .inl hi
  full := .inr (by simp)
  behind _ _ := rfl

/-- One more item, refused because it is not valid, not new, or does not fit. -/
theorem Parsed.refused {s p : State} {l : List Byte} {i : Byte} (h : Parsed s l p)
    (hi : ¬ capAccepts (rxItems p) i = true) : Parsed s (l ++ [i]) p where
  frame := h.frame
  count := h.count
  keeps := h.keeps
  nodup := h.nodup
  offered j hj := (h.offered j hj).imp_right (fun hl => ⟨hl.1, List.mem_append_left _ hl.2⟩)
  full := by
    refine or_iff_not_imp_left.mpr (fun hroom j hj hvalid => ?_)
    rcases List.mem_append.mp hj with hl | hlast
    · exact h.full.resolve_left hroom j hl hvalid
    · obtain rfl := List.mem_singleton.mp hlast
      by_contra hnew
      refine hi ((capAccepts_iff _ _).mpr ⟨hvalid, hnew, fun hlen => hroom (BitVec.eq_of_toNat_eq ?_)⟩)
      rwa [rxItems, ramTake_length] at hlen
  behind := h.behind

/-- One more item, appended. -/
theorem Parsed.appended {s p : State} {l : List Byte} {i : Byte} (h : Parsed s l p)
    (hi : capAccepts (rxItems p) i = true) : Parsed s (l ++ [i]) (rxAppended i p) := by
  obtain ⟨hvalid, hnew, hroom⟩ := (capAccepts_iff _ _).mp hi
  have hcount : (rxAppended i p).v8.nrx.toNat = p.v8.nrx.toNat + 1 := by
    have hle := h.count
    change (p.v8.nrx + 1#5).toNat = _
    bv_omega
  have hitems : rxItems (rxAppended i p) = rxItems p ++ [i] := ramTake_add h.count hi
  rw [rxItems, ramTake_length] at hroom
  refine ⟨?_, ?_, ?_, fun hs => ?_, fun j hj => ?_, .inr (fun j hj hv => ?_), fun a ha => ?_⟩
  · rw [rxAppended, h.frame]
  · rw [hcount]
    exact Nat.lt_of_le_of_ne h.count hroom
  · rw [hitems]
    exact h.keeps.trans (List.prefix_append _ _)
  · rw [hitems, List.nodup_append]
    exact ⟨h.nodup hs, List.nodup_singleton i, fun a ha b hb => by
      rw [List.mem_singleton.mp hb]
      exact ne_of_mem_of_not_mem ha hnew⟩
  · rw [hitems] at hj
    rcases List.mem_append.mp hj with hp | hlast
    · exact (h.offered j hp).imp_right (fun hl => ⟨hl.1, List.mem_append_left _ hl.2⟩)
    · exact .inr ⟨List.mem_singleton.mp hlast ▸ hvalid, List.mem_append_right _ hlast⟩
  · rw [hitems]
    rcases List.mem_append.mp hj with hl | hlast
    · refine List.mem_append_left _ (h.full.resolve_left (fun hfull => hroom ?_) j hl hv)
      rw [hfull]
      rfl
    · exact List.mem_append_right _ hlast
  · rw [hcount] at ha
    change ramRead (ramWrite p.v8.rxcaps p.v8.nrx.toNat i) a = _
    rw [ramRead_ramWrite, if_neg (by omega), h.behind a (by omega)]

/-- Offering items one after the other (R272). -/
theorem parsed_foldl {s : State} (h : s.v8.nrx.toNat ≤ 16) (l : List Byte) : Parsed s l (l.foldl rxCapAdd s) := by
  induction l using List.reverseRecOn with
  | nil => exact parsed_nil h
  | append_singleton l i ih =>
    rw [List.foldl_append, List.foldl_cons, List.foldl_nil]
    by_cases hi : capAccepts (rxItems (l.foldl rxCapAdd s)) i = true
    · rw [rxCapAdd_accepted hi]
      exact ih.appended hi
    · rw [rxCapAdd_refused hi]
      exact ih.refused hi

theorem parsed_menuParse {s : State} (h : s.v8.nrx.toNat ≤ 16) (buf : List Byte) :
    Parsed s (menuItems none buf) (menuParse buf s) := parsed_foldl h _

/-! ### The parse in another state -/

/-- The state with another receive set. -/
def withRxSet (nrx : BitVec 5) (rxcaps : Ram 8) (s : State) : State :=
  { s with v8 := { s.v8 with nrx := nrx, rxcaps := rxcaps } }

/-- The parse reads and writes the receive set alone. -/
theorem menuParse_congr (buf : List Byte) {s t : State} (hn : t.v8.nrx = s.v8.nrx) (hm : t.v8.rxcaps = s.v8.rxcaps) :
    menuParse buf t = withRxSet (menuParse buf s).v8.nrx (menuParse buf s).v8.rxcaps t := by
  unfold menuParse
  induction menuItems none buf generalizing s t with
  | nil =>
    rw [List.foldl_nil, List.foldl_nil, withRxSet, ← hn, ← hm]
  | cons i l ih =>
    have hitems : rxItems t = rxItems s := by rw [rxItems, hn, hm, rxItems]
    rw [List.foldl_cons, List.foldl_cons]
    by_cases hi : capAccepts (rxItems s) i = true
    · rw [rxCapAdd_accepted hi, rxCapAdd_accepted (hitems ▸ hi)]
      exact ih (s := rxAppended i s) (t := rxAppended i t) (by simp [rxAppended, hn]) (by simp [rxAppended, hn, hm])
    · rw [rxCapAdd_refused hi, rxCapAdd_refused (hitems ▸ hi)]
      exact ih hn hm

end Sys2Proof.Proofs
end

section
/-! # A received bit that completes the marker (`spec/44_v8_engine.md` R281, R283, R284, R291) -/

namespace Sys2Proof.Proofs

open Sys2Proof.Machine Sys2Proof.Laws

/-! ### A new accumulation -/

theorem markerClear_eq (s : State) :
    markerClear s =
      { s with
        codec := s.codec.set 2 s.codec[(2 : Fin 3)].clear (Nat.lt_succ_self 2)
        v8 := { s.v8 with rxlen := 0#5, zrun := 0#2 } } := by
  unfold markerClear
  dsimp only
  rw [frmReset_v8Codec]

/-- A new accumulation in the data phase: a selection leaves the `V8` codec. -/
theorem markerClear_dataPhase (id : Byte) (s t : State) (v : V8Regs) (r : Response) :
    markerClear { t.dataPhase (fskSelect id s) with v8 := v, resp := r } =
      { t.dataPhase (fskSelect id s) with
        codec := (fskSelect id s).codec.set 2 s.codec[(2 : Fin 3)].clear (Nat.lt_succ_self 2)
        v8 := { v with rxlen := 0#5, zrun := 0#2 }
        resp := r } := by
  have hcodec := fskSelect_codec_v8 id s
  generalize fskSelect id s = d at hcodec ⊢
  rw [markerClear_eq, ← hcodec]
  rfl

/-- The bytes of the menu received so far. -/
def receivedMenu (s : State) : List Byte := ramTake s.v8.rxbuf s.v8.rxlen.toNat

/-- The state with the received menu parsed and its checksum stored, before the last line of `marker` (R281). -/
def menuNoted (s p : State) : State :=
  { s with v8 := { s.v8 with
      nrx := p.v8.nrx, rxcaps := p.v8.rxcaps, ck := menuChecksum (receivedMenu s), ckv := true } }

theorem v8Marker_empty {s : State} (h : s.v8.rxlen = 0#5) : v8Marker s = markerClear s := by
  unfold v8Marker
  rw [if_neg (by simp [h])]

/-- A marker behind a menu: `p` is the parse of the menu in a state with the same receive set. -/
theorem v8Marker_menu {s p : State} (h : s.v8.rxlen ≠ 0#5)
    (hp : menuParse (receivedMenu s) s = withRxSet p.v8.nrx p.v8.rxcaps s) :
    v8Marker s =
      markerClear (if s.v8.ckv = true ∧ s.v8.ck = menuChecksum (receivedMenu s) then v8Confirm (menuNoted s p)
        else menuNoted s p) := by
  have hpos : 0 < s.v8.rxlen.toNat := by bv_omega
  have hsame : (s.v8.ckv && decide (menuChecksum (receivedMenu s) = s.v8.ck)) = true ↔
      s.v8.ckv = true ∧ s.v8.ck = menuChecksum (receivedMenu s) := by
    rw [Bool.and_eq_true, decide_eq_true_iff, eq_comm (a := menuChecksum _)]
  unfold v8Marker
  rw [if_pos hpos]
  dsimp only
  rw [← receivedMenu, hp]
  simp only [← hsame]
  rfl

/-! ### The confirmation -/

theorem v8Confirm_sentCm {s : State} (h : s.v8.phase = .sentCm) : v8Confirm s = v8Set .negotiated s := by
  unfold v8Confirm
  rw [h]

theorem v8Confirm_sentJm {s : State} (h : s.v8.phase = .sentJm) : v8Confirm s = s := by
  unfold v8Confirm
  rw [h]

/-- A menu made ready and the phase set: all that `v8_send_jm` does, turning transmission on or leaving it (R283). -/
theorem v8SendJm_eq (enable : Bool) (s : State) :
    v8SendJm enable s =
      { s with
        fsk := { s.fsk with txen := enable || s.fsk.txen }
        v8 := { s.v8 with
          phase := .sentJm
          out := ramFill s.v8.out 0 (menuOctets (jointItems s))
          outlen := BitVec.ofNat 5 (menuOctets (jointItems s)).length
          cursor := 0#16 }
        resp := { s.resp with events := s.resp.events ++ phaseEvents s.v8.phase .sentJm } } := by
  simp only [v8SendJm, v8LoadMenu, menuEncode]
  generalize menuOctets (jointItems s) = out
  cases enable with
  | true => exact v8Set_plain (by decide) _
  | false => exact v8Set_plain (by decide) _

/-- The Joint Menu confirmed (R283, R284): from `WAIT_CM` transmission is turned on. -/
theorem v8Confirm_answer {s : State} (h : s.v8.phase = .waitCm ∨ s.v8.phase = .sentAnsam) :
    v8Confirm s = v8SendJm (decide (s.v8.phase = .waitCm)) s := by
  unfold v8Confirm
  rcases h with h | h <;> rw [h] <;> rfl

theorem storedFrom_ramFill {w : Nat} (m : Ram w) (vs : List (BitVec w)) : storedFrom m (ramFill m 0 vs) vs := by
  intro a
  rw [ramRead_ramFill, Nat.zero_add, Nat.sub_zero]
  simp only [Nat.zero_le, true_and]

/-! ### The operation -/

section
variable {s : State} {b : Bool} (hphase : menuPhase s.v8.phase) (hsync : syncNext s.v8 b = 0x00F#10)
include hphase hsync

/-- With an empty buffer a marker only starts a new accumulation. -/
theorem exec_v8PushRxBit_marker_empty (h : s.v8.rxlen = 0#5) :
    exec (.v8PushRxBit b) s = .next (State.answeredOk
      { s with
        codec := s.codec.set 2 s.codec[(2 : Fin 3)].clear (Nat.lt_succ_self 2)
        v8 := { s.v8 with sync := syncNext s.v8 b, zrun := 0#2 } } [] [] []) := by
  rw [exec_v8PushRxBit_marker hphase hsync, v8Marker_empty (s := shifted b s) h, markerClear_eq, ← h]
  rfl

/-- With a buffer the menu is parsed and noted, an equal checksum confirms, and a new accumulation starts. -/
theorem exec_v8PushRxBit_marker_menu (h : s.v8.rxlen ≠ 0#5) {t : State}
    (ht : t = menuNoted (shifted b s) (menuParse (receivedMenu s) s)) :
    exec (.v8PushRxBit b) s = answerOk
      (markerClear (if s.v8.ckv = true ∧ s.v8.ck = menuChecksum (receivedMenu s) then v8Confirm t else t)) [] [] := by
  have hparse := menuParse_congr (receivedMenu s) (s := s) (t := shifted b s) rfl rfl
  rw [exec_v8PushRxBit_marker hphase hsync, v8Marker_menu (s := shifted b s) h hparse, ht]
  rfl

end

end Sys2Proof.Proofs
end

section
/-! # The samples of the V.8 engine (`spec/44_v8_engine.md` R285 to R289) -/

namespace Sys2Proof.Proofs

open Sys2Proof.Machine Sys2Proof.Laws

/-! ### Transmitting -/

/-- The phases in which the outgoing menu is modulated (R285). -/
def sendingPhase (p : Phase) : Prop := p = .sentAnsam ∨ p = .sentCm ∨ p = .sentJm

theorem v8TxSample_txAns {s : State} (h : s.v8.phase = .txAns) : v8TxSample s = toneSample s := by
  unfold v8TxSample
  rw [h]

theorem v8TxSample_sending {s : State} (h : sendingPhase s.v8.phase) : v8TxSample s = modSample v8PopTxBit s := by
  unfold v8TxSample
  rcases h with h | h | h <;> rw [h]

/-- The phases in which the engine is silent (R285). -/
theorem v8TxSample_silent {s : State} (h : s.v8.phase ≠ .txAns ∧ ¬ sendingPhase s.v8.phase) :
    v8TxSample s = (s, 0#32) := by
  unfold v8TxSample
  split
  case h_1 hp => exact absurd hp h.1
  case h_2 hp => exact absurd (.inl hp) h.2
  case h_3 hp => exact absurd (.inr (.inl hp)) h.2
  case h_4 hp => exact absurd (.inr (.inr hp)) h.2
  all_goals rfl

theorem exec_v8Tx (count : BitVec 16) (s : State) :
    exec (.v8Tx count) s = answerOk (synth v8TxSample count.toNat s.begin).1 [] (synth v8TxSample count.toNat s.begin).2 :=
  rfl

theorem exec_v8Tx_one (s : State) : exec (.v8Tx 1#16) s = answerOk (v8TxSample s.begin).1 [] [(v8TxSample s.begin).2] := rfl

/-- A source that keeps the state gives zeros and changes nothing. -/
theorem exec_v8Tx_zeros {s : State} (h : v8TxSample s.begin = (s.begin, 0#32)) (count : BitVec 16) :
    exec (.v8Tx count) s = .next (s.answeredOk [] (List.replicate count.toNat 0#32) []) := by
  rw [exec_v8Tx, synth_idle h]
  rfl

/-- While the answer tone goes on, the engine's samples are the tone's. -/
theorem synth_v8TxSample_running {n : Nat} {s : State} (hp : s.v8.phase = .txAns) (ha : s.tone.active = true)
    (hl : lasts n s.tone) : synth v8TxSample n s = synth toneSample n s := by
  induction n generalizing s with
  | zero => rfl
  | succ n ih =>
    have hsample := toneSample_running ha (not_spent_of_lasts (lasts_mono hl (Nat.le_add_left 1 n)))
    have hrest := ih (s := { s with tone := toneNext s.tone }) hp ((toneNext_active _).trans ha) (lasts_toneNext hl)
    rw [synth, synth, v8TxSample_txAns hp, hsample]
    dsimp only
    rw [hrest]

/-- In `TX_ANS` a block in which the tone does not end, and every single sample, is what `TONE_TX` gives (R285). -/
theorem exec_v8Tx_txAns {count : BitVec 16} {s : State} (hp : s.v8.phase = .txAns)
    (h : s.tone.active = false ∨ lasts count.toNat s.tone ∨ count = 1#16) :
    exec (.v8Tx count) s = exec (.toneTx count) s := by
  have hsame : synth v8TxSample count.toNat s.begin = synth toneSample count.toNat s.begin := by
    cases ha : s.tone.active with
    | false =>
      have hoff := toneSample_off s.begin ha
      rw [synth_idle hoff, synth_idle ((v8TxSample_txAns (s := s.begin) hp).trans hoff)]
    | true =>
      rcases h with h | h | rfl
      · exact absurd (ha.symm.trans h) (by decide)
      · exact synth_v8TxSample_running (s := s.begin) hp ha h
      · change synth v8TxSample 1 s.begin = synth toneSample 1 s.begin
        rw [synth, synth, v8TxSample_txAns (s := s.begin) hp]
        rfl
  rw [exec_v8Tx, hsame, exec_toneTx]

/-- The engine's bit source neither reads nor writes the channels. -/
theorem v8PopTxBit_setChan (s : State) (c : Nat) (x : FskChannel) :
    v8PopTxBit (s.setChan c x) = ((v8PopTxBit s).1.setChan c x, (v8PopTxBit s).2) := by
  have hset : v8Set .sentCm (s.setChan c x) = (v8Set .sentCm s).setChan c x := by
    rw [v8Set_plain (by decide), v8Set_plain (by decide)]
    rfl
  have hphase : (s.setChan c x).v8.phase = s.v8.phase := rfl
  unfold v8PopTxBit
  rw [hphase, hset]
  cases s.v8.phase <;> rfl

theorem exec_v8PopTxBit (s : State) :
    exec .v8PopTxBit s = .next (State.ok (v8PopTxBit s.begin).1 [bitWord (v8PopTxBit s.begin).2] []) := rfl

section
variable {s : State} {c : Fin 2} (hphase : sendingPhase s.v8.phase) (hscheme : s.fsk.scheme ≠ 0#8)
  (htxen : s.fsk.txen = true) (hc : s.fsk.txch.toNat = c.val)
include hphase hscheme htxen hc

/-- A sample inside a symbol writes its channel alone. -/
theorem exec_v8Tx_inside (hclk : s.chan[c].modClk.toNat + s.chan[c].binc.toNat < 2 ^ 32) :
    exec (.v8Tx 1#16) s = .next (State.answeredOk { s with chan := s.chan.set c (modNext s.chan[c]) c.isLt } []
      [word32 (sine s.chan[c].modPh)] []) := by
  rw [← chanAt_fin] at hclk ⊢
  rw [exec_v8Tx_one, v8TxSample_sending (s := s.begin) hphase,
    modSample_inside (s := s.begin) hscheme htxen hc _ hclk, setChan_fin]
  rfl

/-- The sample that ends a symbol takes the next bit of the menu: `u` is what `V8_POP_TX_BIT` leaves. -/
theorem exec_v8Tx_wrap (hclk : 2 ^ 32 ≤ s.chan[c].modClk.toNat + s.chan[c].binc.toNat) {u : State}
    (hu : u = State.ok (v8PopTxBit s.begin).1 [bitWord (v8PopTxBit s.begin).2] []) :
    exec (.v8Tx 1#16) s = .next (State.answeredOk
      { u with
        chan := s.chan.set c { modNext s.chan[c] with modBit := decide (u.resp.results = [1#32]) } c.isLt } []
      [word32 (sine s.chan[c].modPh)] u.resp.events) := by
  have hchan : (v8PopTxBit s.begin).1.chan = s.chan := by simp
  rw [← chanAt_fin] at hclk ⊢
  rw [exec_v8Tx_one, v8TxSample_sending (s := s.begin) hphase,
    modSample_wrap (s := s.begin) hscheme htxen hc (fun u x => v8PopTxBit_setChan u c x) hclk, setChan_fin, hchan, hu,
    decide_ok_results]
  rfl

end

/-! ### Receiving -/

theorem v8RxLoop_nil (fuel : Nat) (s : State) : v8RxLoop fuel [] s = s := by
  cases fuel <;> rfl

/-- The phases in which samples are discarded (R286). -/
def deafPhase (p : Phase) : Prop := p = .idle ∨ p = .txAns ∨ p = .negotiated ∨ p = .stopped

theorem v8RxLoop_deaf {s : State} (h : deafPhase s.v8.phase) (fuel : Nat) (xs : List Word) : v8RxLoop fuel xs s = s := by
  cases fuel with
  | zero => rfl
  | succ fuel =>
    cases xs with
    | nil => rfl
    | cons x xs =>
      unfold v8RxLoop
      rcases h with h | h | h | h <;> rw [h]

theorem v8RxLoop_menu {s : State} (h : menuPhase s.v8.phase) (fuel : Nat) (x : Word) (xs : List Word) :
    v8RxLoop (fuel + 1) (x :: xs) s = v8RxLoop fuel xs (demSample v8PushRxBit x s) := by
  conv_lhs => unfold v8RxLoop
  rcases h with h | h | h | h <;> rw [h]

/-- With no scheme the demodulator takes the samples and changes nothing. -/
theorem v8RxLoop_noScheme {s : State} (h : menuPhase s.v8.phase) (hscheme : s.fsk.scheme = 0#8) (fuel : Nat)
    (xs : List Word) : v8RxLoop fuel xs s = s := by
  induction fuel generalizing xs with
  | zero => rfl
  | succ fuel ih =>
    cases xs with
    | nil => rfl
    | cons x xs =>
      have hsample : demSample v8PushRxBit x s = s := if_pos hscheme
      rw [v8RxLoop_menu h, hsample, ih]

theorem exec_v8Rx (xs : List Word) (s : State) : exec (.v8Rx xs) s = answerOk (v8RxBlock xs s.begin) [] [] := rfl

theorem exec_v8Rx_unchanged {xs : List Word} {s : State} (h : v8RxBlock xs s.begin = s.begin) :
    exec (.v8Rx xs) s = .next (s.answeredOk [] [] []) := by
  rw [exec_v8Rx, h]
  rfl

section
variable {s : State} {c : Fin 2} {x : Word} (hphase : menuPhase s.v8.phase) (hscheme : s.fsk.scheme ≠ 0#8)
  (hc : s.fsk.rxch.toNat = c.val)
include hphase hscheme hc

theorem exec_v8Rx_one :
    exec (.v8Rx [x]) s = answerOk
      (if (heard s c x).2 then v8PushRxBit (newEstimate s c x) (s.begin.setChan c (heard s c x).1)
        else s.begin.setChan c (heard s c x).1) [] [] := by
  rw [exec_v8Rx, v8RxBlock, v8RxLoop_menu (s := s.begin) hphase, v8RxLoop_nil]
  exact congrArg (answerOk · [] []) (demSample_on (s := s.begin) hscheme hc v8PushRxBit x)

/-- A sample inside a symbol. -/
theorem exec_v8Rx_inside (h : (heard s c x).2 = false) :
    exec (.v8Rx [x]) s = .next ((s.setChan c (heard s c x).1).answeredOk [] [] []) := by
  rw [exec_v8Rx_one hphase hscheme hc, h]
  rfl

/-- The sample that ends a symbol gives the estimate to the engine. -/
theorem exec_v8Rx_wrap (h : (heard s c x).2 = true) :
    exec (.v8Rx [x]) s = exec (.v8PushRxBit (newEstimate s c x)) (s.setChan c (heard s c x).1) := by
  rw [exec_v8Rx_one hphase hscheme hc, h]
  rfl

end

/-! ### Hearing the answer -/

/-- A block that the classifier takes whole: `DET_SINGLE` of it, and the answer heard when it is `NEW` (R286, R287). -/
theorem v8RxBlock_rxAns {xs : List Word} {s : State} (hp : s.v8.phase = .rxAns) (hne : xs ≠ [])
    (hused : (detect false xs s).2.used = xs.length) :
    v8RxBlock xs s =
      if (detect false xs s).2.cls = .new then answerSeen (detect false xs s).1 else (detect false xs s).1 := by
  obtain ⟨x, xs, rfl⟩ := List.exists_cons_of_ne_nil hne
  unfold v8RxBlock v8RxLoop
  rw [hp]
  dsimp only
  rw [hused, List.drop_length, v8RxLoop_nil]

/-- A block of no more samples than are left is taken whole (`spec/42_tone_engine.md` R204). -/
theorem detect_used {xs : List Word} {s : State} (hn : s.det.n ≠ 0#5) (hfill : s.det.fill.toNat < 256)
    (h : s.det.fill.toNat + xs.length ≤ 256) : (detect false xs s).2.used = xs.length := by
  rcases Nat.lt_or_eq_of_le h with hin | hend
  · rw [detect_inside hn hin]
  · rw [detect_end_eq hn hfill hend.ge]
    exact (Nat.eq_sub_of_add_eq' hend).symm

theorem classCode_eq_new (c : ToneClass) : classCode c = 2#32 ↔ c = .new := by
  cases c <;> decide

/-- The state `s` with V21 made ready to receive, in `WAIT_CM` (R287): `d` is what the selection of V21 leaves. -/
def listening (s d : State) : State :=
  { s.withFskOf d with
    fsk := { d.fsk with txch := 0#1, rxch := 1#1, txen := false }
    v8 := { s.v8 with phase := .waitCm } }

theorem v8Set_waitCm_listening (s d : State) :
    v8Set .waitCm (fskSetDirections 0#1 1#1 false (s.withFskOf d)) =
      { listening s d with
        resp := { s.resp with events := s.resp.events ++ phaseEvents s.v8.phase .waitCm } } :=
  v8Set_plain (by decide) _

/-- What hearing the answer does (R287). -/
theorem answerSeen_eq {s : State} (hp : s.v8.phase = .rxAns) :
    answerSeen s =
      { listening s (fskSelect 1#8 s) with
        resp := { s.resp with events := s.resp.events ++ [.v8State .rxAns .waitCm] } } := by
  have hevents : phaseEvents .rxAns .waitCm = [.v8State .rxAns .waitCm] := rfl
  have hset := v8Set_waitCm_listening s (fskSelect 1#8 s)
  rw [hp, hevents] at hset
  rw [← hset, ← fskSelect_eq_withFskOf, answerSeen, v8Scheme_eq]

/-- An answer decides nothing but the response. -/
theorem answerOk_listening (s d : State) (r : Response) (words : List Word) :
    answerOk { listening s d with resp := r } [] [] =
      .next ((listening (s.ok words []) (d.ok [] [])).answeredOk [] [] r.events) := rfl

/-- `V8_RX` in `RX_ANS` of a block of no more samples than are left (R286, R287): `t` is what `DET_SINGLE` leaves. -/
theorem exec_v8Rx_rxAns {xs : List Word} {s : State} (hp : s.v8.phase = .rxAns) (hn : s.det.n ≠ 0#5)
    (hfill : s.det.fill.toNat < 256) (h : s.det.fill.toNat + xs.length ≤ 256) :
    exec (.v8Rx xs) s = answerOk
      (if (detect false xs s.begin).2.cls = .new then answerSeen (detect false xs s.begin).1
        else (detect false xs s.begin).1) [] [] := by
  rw [exec_v8Rx]
  cases xs with
  | nil =>
    rw [detect_inside (s := s.begin) hn (by exact hfill), v8RxBlock, v8RxLoop_nil]
    rfl
  | cons x xs =>
    rw [v8RxBlock_rxAns (s := s.begin) hp (List.cons_ne_nil x xs) (detect_used (s := s.begin) hn hfill h)]

/-- The answer to a block that left `u` and was classified as `cls`, in the terms of the detector's own answer. -/
theorem answerOk_answerSeen {u : State} (cls : ToneClass) (hresp : u.resp = Response.empty) (hp : u.v8.phase = .rxAns)
    (words : List Word) :
    answerOk (if cls = .new then answerSeen u else u) [] [] = .next (
      if classCode cls = 2#32 then
        (listening (u.ok words []) (State.ok (fskSelect 1#8 (u.ok words []).begin) [] [])).answeredOk [] []
          [.v8State .rxAns .waitCm]
      else (u.ok words []).answeredOk [] [] []) := by
  have hbegin : (u.ok words []).begin = u := by
    rw [State.begin, State.ok, ← hresp]
  simp only [hbegin, classCode_eq_new]
  split
  case isTrue =>
    rw [answerSeen_eq hp, hresp, answerOk_listening u (fskSelect 1#8 u) _ words]
    rfl
  case isFalse =>
    rw [answerOk, ok_eq, hresp]
    rfl

end Sys2Proof.Proofs
end

section
/-! # The phases in which the V.8 engine rests (`spec/44_v8_engine.md` R293) -/

namespace Sys2Proof.Proofs

open Sys2Proof.Machine Sys2Proof.Laws

/-- `IDLE`, `NEGOTIATED` and `STOPPED` (R293). -/
def restPhase (p : Phase) : Prop := p = .idle ∨ p = .negotiated ∨ p = .stopped

variable {s t : State}

/-! ### Silent and deaf -/

theorem restPhase_ne_txAns {p : Phase} (h : restPhase p) : p ≠ .txAns := by
  rcases h with rfl | rfl | rfl <;> decide

theorem not_sendingPhase_of_rest {p : Phase} (h : restPhase p) : ¬ sendingPhase p := by
  rcases h with rfl | rfl | rfl <;> simp [sendingPhase]

theorem not_menuPhase_of_rest {p : Phase} (h : restPhase p) : ¬ menuPhase p := by
  rcases h with rfl | rfl | rfl <;> simp [menuPhase]

theorem deafPhase_of_rest {p : Phase} (h : restPhase p) : deafPhase p :=
  h.imp_right .inr

theorem v8TxSample_rest (h : restPhase s.v8.phase) : v8TxSample s = (s, 0#32) :=
  v8TxSample_silent ⟨restPhase_ne_txAns h, not_sendingPhase_of_rest h⟩

theorem v8PopTxBit_rest (h : restPhase s.v8.phase) : v8PopTxBit s = (s, true) := by
  unfold v8PopTxBit
  rcases h with h | h | h <;> rw [h]

theorem v8PushRxBit_rest (h : restPhase s.v8.phase) (b : Bool) : v8PushRxBit b s = s := by
  unfold v8PushRxBit
  rcases h with h | h | h <;> rw [h]

theorem v8RxBlock_rest (h : restPhase s.v8.phase) (xs : List Word) : v8RxBlock xs s = s :=
  v8RxLoop_deaf (deafPhase_of_rest h) _ xs

theorem pullSample_v8 (h : s.callState = .v8) : pullSample s = v8TxSample s := by
  unfold pullSample
  rw [h]

theorem pushBlock_v8 (h : s.callState = .v8) (xs : List Word) : pushBlock xs s = v8RxBlock xs s := by
  unfold pushBlock
  rw [h]

/-! ### Samples outside the engine -/

/-- Settling a tone keeps the phase of an engine that rests. -/
theorem toneSettle_rest (h : restPhase s.v8.phase) : (toneSettle s).v8 = s.v8 :=
  (settled_toneSettle s).v8 (restPhase_ne_txAns h)

theorem toneSample_rest (h : restPhase s.v8.phase) : (toneSample s).1.v8 = s.v8 := by
  unfold toneSample
  split
  · rfl
  · dsimp only
    split
    · exact toneSettle_rest (s := { s with tone := s.tone.advance.reverse.spend }) h
    · rfl

theorem modSample_dataPopTxBit_v8 (s : State) : (modSample dataPopTxBit s).1.v8 = s.v8 :=
  modSample_keeps s State.v8 dataPopTxBit (by simp) (by simp)

theorem pullSample_rest (h : restPhase s.v8.phase) : (pullSample s).1.v8 = s.v8 := by
  unfold pullSample
  split
  · rfl
  · rfl
  · exact toneSample_rest h
  · rw [v8TxSample_rest h]
  · exact modSample_dataPopTxBit_v8 s

theorem pushDetectLoop_v8 (fuel : Nat) (xs : List Word) (s : State) : (pushDetectLoop fuel xs s).v8 = s.v8 := by
  induction fuel generalizing s xs with
  | zero => rfl
  | succ fuel ih =>
    cases xs with
    | nil => rfl
    | cons x xs =>
      unfold pushDetectLoop
      dsimp only
      rw [ih]
      split <;> simp

theorem pushBlock_rest (h : restPhase s.v8.phase) (xs : List Word) : (pushBlock xs s).v8 = s.v8 := by
  unfold pushBlock
  split
  · rfl
  · exact pushDetectLoop_v8 _ xs s
  · exact pushDetectLoop_v8 _ xs s
  · rw [v8RxBlock_rest h]
  · exact demBlock_keeps s State.v8 dataPushRxBit xs (by simp) (by simp)

/-- A block of samples each of which keeps an engine that rests. -/
theorem synth_rest {f : State → State × Word} (hf : ∀ u : State, restPhase u.v8.phase → (f u).1.v8 = u.v8) (n : Nat)
    (h : restPhase s.v8.phase) : restPhase (synth f n s).1.v8.phase :=
  synth_inv (fun u => restPhase u.v8.phase) f (fun u hu => by rwa [hf u hu]) n s h

/-! ### Operations -/

/-- The outcome, if it is a next state, is one in which the engine rests. -/
def restAfter (r : Result) : Prop := ∀ t, r = .next t → restPhase t.v8.phase

theorem restAfter_ok {u : State} {r y : List Word} (h : restPhase u.v8.phase) : restAfter (answerOk u r y) := by
  rintro t ⟨⟩
  exact h

theorem restAfter_fail (h : restPhase s.v8.phase) : restAfter (answerFail s) := by
  rintro t ⟨⟩
  exact h

theorem restAfter_ite {c : Prop} [Decidable c] {r r' : Result} (h : restAfter r) (h' : restAfter r') :
    restAfter (if c then r else r') := by
  split
  · exact h
  · exact h'

/-- Re-initialisation ends in `IDLE` or is refused. -/
theorem restAfter_reinit {i : Instr} (hi : reinitialises i = true) (h : restPhase s.v8.phase) : restAfter (exec i s) := by
  intro t ht
  cases exec_ran i s t ht with
  | failed => exact h
  | illegal => exact h
  | done r y he hm => exact .inl (reinit_phase hi ht rfl)

theorem gzPowerClear_v8 (u : Nat) (s : State) : (gzPowerClear u s).v8 = s.v8 := by
  unfold gzPowerClear
  split <;> rfl

theorem restAfter_rdReg (h : restPhase s.v8.phase) (index : BitVec 8) (id : BitVec 16) : restAfter (execRdReg index id s) := by
  unfold execRdReg
  split
  · exact restAfter_fail h
  · exact restAfter_ok h

theorem restAfter_rdMem (h : restPhase s.v8.phase) (mem : BitVec 8) (addr : BitVec 16) :
    restAfter (execRdMem mem addr s) := by
  unfold execRdMem
  split
  · exact restAfter_fail h
  · exact restAfter_ok h

theorem restAfter_frmLoad (h : restPhase s.v8.phase) (k : Fin 3) (b : Byte) : restAfter (execFrmLoad k b s) := by
  unfold execFrmLoad
  rw [frmLoad_eq]
  split
  · exact restAfter_fail h
  · rename_i u hu
    split at hu <;> cases hu
    exact restAfter_ok h

theorem restAfter_detCfg (h : restPhase s.v8.phase) (ids : List Word) : restAfter (execDetCfg ids s) := by
  unfold execDetCfg
  refine restAfter_ite (restAfter_fail h) ?_
  split
  · exact restAfter_fail h
  · rename_i u hu
    obtain ⟨-, -, rfl⟩ := (detCfg_eq_some _ _ _).mp hu
    exact restAfter_ok (by simpa using h)

theorem restAfter_txByte (h : restPhase s.v8.phase) (b : Byte) : restAfter (execTxByte b s) := by
  unfold execTxByte
  split
  · exact restAfter_fail h
  · rename_i u hu
    obtain ⟨-, rfl⟩ := (txqPut_eq_some _ b _).mp hu
    exact restAfter_ok h

theorem restAfter_v8AddCap (h : restPhase s.v8.phase) (item : Byte) : restAfter (execV8AddCap item s) := by
  unfold execV8AddCap
  split
  · exact restAfter_fail h
  · rename_i u hu
    obtain ⟨-, rfl⟩ := (txCapAdd_eq_some _ item _).mp hu
    exact restAfter_ok h

theorem restAfter_serialBit (h : restPhase s.v8.phase) (b : Bool) : restAfter (execSerialBit b s) := by
  unfold execSerialBit
  dsimp only
  split
  · refine restAfter_ok ?_
    split <;> simpa using h
  · exact restAfter_ok (by simpa using h)

theorem restAfter_preData (h : restPhase s.v8.phase) : restAfter (execTimerFire .preData s) :=
  restAfter_ite (restAfter_fail h) (restAfter_ok (by simpa using h))

/-- Only a start and the firing of the post-dial timer leave the three phases (R293). -/
theorem exec_rest {i : Instr} (h : restPhase s.v8.phase) (hstart : ∀ role tone, i ≠ .v8Start role tone)
    (hdial : i ≠ .timerFire .postDial) : restAfter (exec i s) := by
  have hset : ∀ t : ToneTx, (toneSettle { s.begin with tone := t }).v8 = s.v8 :=
    fun t => toneSettle_rest (s := { s.begin with tone := t }) h
  have hb : restPhase s.begin.v8.phase := h
  cases i with
  | reset | setRate | setOnHook | restart => exact restAfter_reinit rfl h
  | nop | getRate | phaseInc | phaseInv | sine | correlate | isOnHook | v8GetTxcaps | v8GetRxcaps | toneStop | frmCfg
  | fskTxen => exact restAfter_ok h
  | rdReg index id => exact restAfter_rdReg h index id
  | rdMem mem addr => exact restAfter_rdMem h mem addr
  | gzInit u n f => exact restAfter_ite (restAfter_fail h) (restAfter_ok (by simpa using h))
  | gzAcc u xs => rw [exec_gzAcc]; exact fun t ht => by cases ht; exact h
  | gzPower u => exact restAfter_ok (gzPowerClear_v8 u s.begin ▸ h)
  | iqBuild k len f => exact restAfter_ite (restAfter_fail h) (restAfter_ok (by simpa using h))
  | frmLoad k b => exact restAfter_frmLoad h k b
  | frmPop k => exact restAfter_ok (by simpa using h)
  | frmPush k b => rw [exec_frmPush]; exact fun t ht => by cases ht; exact h
  | frmReset k => exact restAfter_ok (by simpa using h)
  | toneStart id so total gain => exact restAfter_ite (restAfter_ok (hset _ ▸ h)) (restAfter_fail h)
  | toneStartF f1 f2 total gain => exact restAfter_ok (hset _ ▸ h)
  | toneTx count => exact restAfter_ok (synth_rest (fun _ => toneSample_rest) _ hb)
  | detCfg ids => exact restAfter_detCfg h ids
  | detSingle | detDual | detReset | dataPopTxBit | dataPushRxBit => exact restAfter_ok (by simpa using h)
  | fskSelect id => exact restAfter_ite (restAfter_fail h) (restAfter_ok (by simpa using h))
  | fskTxch c => exact restAfter_ite (restAfter_fail h) (restAfter_ok h)
  | fskRxch c => exact restAfter_ite (restAfter_fail h) (restAfter_ok h)
  | fskTx count => exact restAfter_ok (synth_rest (fun u _ => modSample_dataPopTxBit_v8 u) _ hb)
  | fskRx xs =>
    have hkeep := demBlock_keeps s.begin State.v8 dataPushRxBit xs (by simp) (by simp)
    exact restAfter_ok (hkeep ▸ hb)
  | txByte b => exact restAfter_txByte h b
  | v8Start role tone => exact absurd rfl (hstart role tone)
  | v8Stop => exact restAfter_ok (.inr (.inr (v8Set_phase _ _)))
  | v8AddCap item => exact restAfter_v8AddCap h item
  | v8Tx count => exact restAfter_ok (synth_rest (fun u hu => by rw [v8TxSample_rest hu]) _ hb)
  | v8Rx xs => exact restAfter_ok ((v8RxBlock_rest hb xs).symm ▸ hb)
  | v8PopTxBit => exact restAfter_ok ((v8PopTxBit_rest hb).symm ▸ hb)
  | v8PushRxBit b => exact restAfter_ok ((v8PushRxBit_rest hb b).symm ▸ hb)
  | setOffHook tone =>
    exact restAfter_ite (restAfter_fail h) (restAfter_ok (goOffHook_v8 tone (restPhase_ne_txAns hb) ▸ hb))
  | pull count => exact restAfter_ok (synth_rest (fun _ => pullSample_rest) _ hb)
  | push xs => exact restAfter_ok (pushBlock_rest hb xs ▸ hb)
  | serialBit b => exact restAfter_serialBit h b
  | timerFire w =>
    cases w with
    | postDial => exact absurd rfl hdial
    | preData => exact restAfter_preData h

end Sys2Proof.Proofs
end

section
/-! # Reading back an encoded menu (`spec/44_v8_engine.md` R270, R272) -/

namespace Sys2Proof.Proofs

open Sys2Proof.Machine Sys2Proof.Laws

/-- `i` is an item of `l` from `lo` to `hi`. -/
def offers (l : List Nat) (lo hi : Nat) (i : Byte) : Prop := ∃ k ∈ l, (lo ≤ k ∧ k ≤ hi) ∧ BitVec.ofNat 8 k = i

/-! ### Octets of one item -/

/-- The items of `l` from `lo` to `hi`, in order. -/
def itemsWithin (l : List Nat) (lo hi : Nat) : List Byte :=
  (l.filter (fun k => decide (lo ≤ k ∧ k ≤ hi))).map (BitVec.ofNat 8)

theorem mem_itemsWithin (l : List Nat) (lo hi : Nat) (i : Byte) : i ∈ itemsWithin l lo hi ↔ offers l lo hi i := by
  simp [itemsWithin, offers, and_assoc]

/-- Octets each of which stands for its item alone, whatever came before, are read back as their items. -/
theorem menuItems_octetsOf {lo hi : Nat} {f : Nat → Nat}
    (hf : ∀ k, lo ≤ k → k ≤ hi → ∀ last, parseOctet last (BitVec.ofNat 8 (f k)) = ([BitVec.ofNat 8 k], none))
    (l : List Nat) (rest : List Byte) (last : Option Nat) :
    ∃ last', menuItems last (octetsOf l lo hi f ++ rest) = itemsWithin l lo hi ++ menuItems last' rest := by
  induction l generalizing last with
  | nil => exact ⟨last, rfl⟩
  | cons k l ih =>
    by_cases hk : lo ≤ k ∧ k ≤ hi
    · obtain ⟨last', hrest⟩ := ih none
      refine ⟨last', ?_⟩
      have hoctets : octetsOf (k :: l) lo hi f = BitVec.ofNat 8 (f k) :: octetsOf l lo hi f := by
        simp [octetsOf, hk]
      have hitems : itemsWithin (k :: l) lo hi = BitVec.ofNat 8 k :: itemsWithin l lo hi := by
        simp [itemsWithin, hk]
      rw [hoctets, hitems, List.cons_append, menuItems, hf k hk.1 hk.2, hrest]
      rfl
    · have hoctets : octetsOf (k :: l) lo hi f = octetsOf l lo hi f := by
        simp [octetsOf, hk]
      have hitems : itemsWithin (k :: l) lo hi = itemsWithin l lo hi := by
        simp [itemsWithin, hk]
      rw [hoctets, hitems]
      exact ih last

/-! ### Octets of option bits -/

/-- The bits of a word into which bits are merged. -/
theorem testBit_foldl_or (g : Nat → Nat) (l : List Nat) (m n : Nat) :
    (l.foldl (fun m i => m ||| (1 <<< g i)) m).testBit n = true ↔ m.testBit n = true ∨ ∃ i ∈ l, g i = n := by
  induction l generalizing m with
  | nil => simp
  | cons i l ih =>
    rw [List.foldl_cons, ih, Nat.testBit_or, Nat.one_shiftLeft, Nat.testBit_two_pow]
    simp [or_assoc]

/-- The bits of a modulation octet: those of its tag and those of its items. -/
theorem modOctet_getLsbD (l : List Nat) (base lo hi : Nat) (bit : Nat → Nat) {n : Nat} (hn : n < 8) :
    (modOctet l base lo hi bit).getLsbD n = true ↔
      base.testBit n = true ∨ ∃ k ∈ l, (lo ≤ k ∧ k ≤ hi) ∧ bit (k % 16) = n := by
  rw [modOctet, BitVec.getLsbD_ofNat, decide_eq_true hn, Bool.true_and, testBit_foldl_or (fun k => bit (k % 16))]
  simp [and_assoc]

/-- Bits that no item sets are those of the tag. -/
theorem modOctet_and_mask {base lo hi : Nat} {bit : Nat → Nat} (mask : Byte)
    (h : ∀ k, lo ≤ k → k ≤ hi → mask.getLsbD (bit (k % 16)) = false) (l : List Nat) :
    modOctet l base lo hi bit &&& mask = BitVec.ofNat 8 base &&& mask := by
  refine BitVec.eq_of_getLsbD_eq (fun n hn => ?_)
  rw [BitVec.getLsbD_and, BitVec.getLsbD_and, BitVec.getLsbD_ofNat, decide_eq_true hn, Bool.true_and]
  cases hm : mask.getLsbD n with
  | false => rw [Bool.and_false, Bool.and_false]
  | true =>
    have hitem : ¬ ∃ k ∈ l, (lo ≤ k ∧ k ≤ hi) ∧ bit (k % 16) = n := by
      rintro ⟨k, -, hk, rfl⟩
      exact absurd (hm.symm.trans (h k hk.1 hk.2)) (by decide)
    rw [Bool.and_true, Bool.and_true, Bool.eq_iff_iff, modOctet_getLsbD l base lo hi bit hn, or_iff_left hitem]

theorem mem_itemsOfBits (w : Byte) (base : Nat) (bits : List Nat) (i : Byte) :
    i ∈ itemsOfBits w base bits ↔
      ∃ n k, bits[k]? = some n ∧ w.getLsbD n = true ∧ BitVec.ofNat 8 (base ||| k) = i := by
  simp [itemsOfBits, List.mem_zipIdx_iff_getElem?, and_assoc]

/-- The items of a modulation octet, one bit each, are read back from it. -/
theorem mem_itemsOfBits_modOctet {base lo hi : Nat} {bit : Nat → Nat} {bits : List Nat} (hnodup : bits.Nodup)
    (hfree : ∀ n ∈ bits, n < 8 ∧ base.testBit n = false)
    (hcode : ∀ k, lo ≤ k → k ≤ hi → bits[k % 16]? = some (bit (k % 16)) ∧ lo ||| (k % 16) = k) (l : List Nat) (i : Byte) :
    i ∈ itemsOfBits (modOctet l base lo hi bit) lo bits ↔ offers l lo hi i := by
  rw [mem_itemsOfBits]
  constructor
  · rintro ⟨n, j, hj, hset, rfl⟩
    obtain ⟨hlt, htag⟩ := hfree n (List.mem_of_getElem? hj)
    rcases (modOctet_getLsbD l base lo hi bit hlt).mp hset with hbase | ⟨k, hk, hrange, rfl⟩
    · exact absurd (hbase.symm.trans htag) (by decide)
    · obtain ⟨hbit, hitem⟩ := hcode k hrange.1 hrange.2
      have hindex : k % 16 = j :=
        (List.getElem?_inj (List.getElem?_eq_some_iff.mp hbit).1 hnodup).mp (hbit.trans hj.symm)
      exact ⟨k, hk, hrange, by rw [← hindex, hitem]⟩
  · rintro ⟨k, hk, hrange, rfl⟩
    obtain ⟨hbit, hitem⟩ := hcode k hrange.1 hrange.2
    obtain ⟨hlt, -⟩ := hfree _ (List.mem_of_getElem? hbit)
    exact ⟨_, _, hbit, (modOctet_getLsbD l base lo hi bit hlt).mpr (.inr ⟨k, hk, hrange, rfl⟩), by rw [hitem]⟩

/-- The first modulation octet by its tag. -/
theorem parseOctet_modulation {w : Byte} (h : w &&& 0x1F#8 = 0x05#8) (last : Option Nat) :
    parseOctet last w = (itemsOfBits w 0x20 [5, 6, 7], some 0) := by
  have htag : ∀ w : Byte, w &&& 0x1F#8 = 0x05#8 → w.getLsbD 4 = false ∧ (w &&& 0x0F#8).toNat = 5 := by decide
  obtain ⟨hbit, hlow⟩ := htag w h
  unfold parseOctet
  rw [hbit, hlow]
  rfl

/-- The two extension octets by their tag and their place behind the first. -/
theorem parseOctet_extension {w : Byte} (h : w &&& 0x38#8 = 0x10#8) :
    parseOctet (some 0) w = (itemsOfBits w 0x30 extBits, some 1) ∧
    parseOctet (some 1) w = (itemsOfBits w 0x40 extBits, some 2) := by
  have htag : ∀ w : Byte, w &&& 0x38#8 = 0x10#8 → w.getLsbD 4 = true := by decide
  unfold parseOctet
  rw [htag w h]
  simp [h]

/-! ### The whole menu -/

/-- The three modulation octets (R270). -/
def modulationOctets (l : List Nat) : List Byte :=
  [modOctet l 0x05 0x20 0x22 (fun k => 5 + k), modOctet l 0x10 0x30 0x34 (fun k => extBits.getD k 0),
    modOctet l 0x10 0x40 0x44 (fun k => extBits.getD k 0)]

/-- Whatever octet came before, the parser offers exactly the items with `P` for these octets. -/
def ReadBack (octets : List Byte) (P : Byte → Prop) : Prop := ∀ last i, i ∈ menuItems last octets ↔ P i

theorem readBack_nil : ReadBack [] (fun _ => False) := fun _ _ => iff_of_false List.not_mem_nil id

variable {rest : List Byte} {P : Byte → Prop}

/-- Octets of one item each before octets that are read back. -/
theorem ReadBack.octetsOf {lo hi : Nat} {f : Nat → Nat} (l : List Nat) (h : ReadBack rest P)
    (hf : ∀ k, lo ≤ k → k ≤ hi → ∀ last, parseOctet last (BitVec.ofNat 8 (f k)) = ([BitVec.ofNat 8 k], none)) :
    ReadBack (Machine.octetsOf l lo hi f ++ rest) (fun i => offers l lo hi i ∨ P i) := by
  intro last i
  obtain ⟨last', hrest⟩ := menuItems_octetsOf hf l rest last
  rw [hrest, List.mem_append, mem_itemsWithin, h]

/-- The modulation octets before octets that are read back. -/
theorem ReadBack.modulationOctets (l : List Nat) (h : ReadBack rest P) :
    ReadBack (Proofs.modulationOctets l ++ rest)
      (fun i => offers l 0x20 0x22 i ∨ offers l 0x30 0x34 i ∨ offers l 0x40 0x44 i ∨ P i) := by
  intro last i
  have hfirst := parseOctet_modulation (modOctet_and_mask (lo := 0x20) (hi := 0x22) (base := 0x05)
    (bit := fun k => 5 + k) 0x1F#8 (fun k h h' => by interval_cases k <;> rfl) l) last
  have hsecond := (parseOctet_extension (modOctet_and_mask (lo := 0x30) (hi := 0x34) (base := 0x10)
    (bit := fun k => extBits.getD k 0) 0x38#8 (fun k h h' => by interval_cases k <;> rfl) l)).1
  have hthird := (parseOctet_extension (modOctet_and_mask (lo := 0x40) (hi := 0x44) (base := 0x10)
    (bit := fun k => extBits.getD k 0) 0x38#8 (fun k h h' => by interval_cases k <;> rfl) l)).2
  have hmem20 := mem_itemsOfBits_modOctet (base := 0x05) (lo := 0x20) (hi := 0x22) (bit := fun k => 5 + k)
    (bits := [5, 6, 7]) (by decide) (by decide) (fun k h h' => by interval_cases k <;> decide) l i
  have hmem30 := mem_itemsOfBits_modOctet (base := 0x10) (lo := 0x30) (hi := 0x34) (bit := fun k => extBits.getD k 0)
    (bits := extBits) (by decide) (by decide) (fun k h h' => by interval_cases k <;> decide) l i
  have hmem40 := mem_itemsOfBits_modOctet (base := 0x10) (lo := 0x40) (hi := 0x44) (bit := fun k => extBits.getD k 0)
    (bits := extBits) (by decide) (by decide) (fun k h h' => by interval_cases k <;> decide) l i
  simp only [Proofs.modulationOctets, List.cons_append, List.nil_append, menuItems, hfirst, hsecond, hthird,
    List.mem_append, hmem20, hmem30, hmem40, h (some 2) i]

/-- All octets of the items `l`, before the menu is cut to its capacity (R270). -/
def allOctets (l : List Nat) : List Byte :=
  octetsOf l 0x10 0x17 (codeOctet 0x01) ++ (modulationOctets l ++ (octetsOf l 0x50 0x57 (codeOctet 0x0A) ++
    (octetsOf l 0x60 0x62 (optionOctet 0x0D) ++ (octetsOf l 0x70 0x72 (optionOctet 0x07) ++
      (octetsOf l 0x80 0x87 (codeOctet 0x0E) ++ (octetsOf l 0x90 0x97 (codeOctet 0x0F) ++ []))))))

theorem menuOctets_eq_take (items : List Byte) :
    menuOctets items = (allOctets ((items.map BitVec.toNat).insertionSort (· ≤ ·))).take 16 := by
  simp only [menuOctets, allOctets, modulationOctets, List.append_assoc, List.append_nil, menuCap_eq]

/-- The octets of the items `l` are read back as the items of `l`, group by group of the item space. -/
theorem mem_menuItems_allOctets (l : List Nat) (i : Byte) :
    i ∈ menuItems none (allOctets l) ↔ ∃ r ∈ itemSpace, offers l r.1 r.2 i := by
  have h90 := readBack_nil.octetsOf (lo := 0x90) (hi := 0x97) (f := codeOctet 0x0F) l
    (fun k h h' last => by interval_cases k <;> rfl)
  have h80 := h90.octetsOf (lo := 0x80) (hi := 0x87) (f := codeOctet 0x0E) l
    (fun k h h' last => by interval_cases k <;> rfl)
  have h70 := h80.octetsOf (lo := 0x70) (hi := 0x72) (f := optionOctet 0x07) l
    (fun k h h' last => by interval_cases k <;> rfl)
  have h60 := h70.octetsOf (lo := 0x60) (hi := 0x62) (f := optionOctet 0x0D) l
    (fun k h h' last => by interval_cases k <;> rfl)
  have h50 := h60.octetsOf (lo := 0x50) (hi := 0x57) (f := codeOctet 0x0A) l
    (fun k h h' last => by interval_cases k <;> rfl)
  have hall := (h50.modulationOctets l).octetsOf (lo := 0x10) (hi := 0x17) (f := codeOctet 0x01) l
    (fun k h h' last => by interval_cases k <;> rfl)
  refine (hall none i).trans ?_
  simp only [itemSpace, List.mem_cons, List.not_mem_nil, exists_eq_or_imp, exists_eq_left, or_false]

/-- Two properties that exclude each other and imply a third. -/
theorem countP_add_le {p q r : Nat → Bool} (hp : ∀ k, p k = true → r k = true ∧ q k = false)
    (hq : ∀ k, q k = true → r k = true) (l : List Nat) : l.countP p + l.countP q ≤ l.countP r := by
  induction l with
  | nil => exact le_rfl
  | cons k l ih =>
    have hone : (if p k = true then 1 else 0) + (if q k = true then 1 else 0) ≤ (if r k = true then 1 else 0) := by
      cases hpk : p k with
      | true => simp [hp k hpk]
      | false => cases hqk : q k with
        | true => simp [hq k hqk]
        | false => simp
    simp only [List.countP_cons]
    omega

/-- The items from `lo` on are those up to `hi` and those from a later number on. -/
theorem countP_range_add_le {lo hi next : Nat} (h : hi < next) (h' : lo ≤ next) (l : List Nat) :
    l.countP (fun k => decide (lo ≤ k ∧ k ≤ hi)) + l.countP (fun k => decide (next ≤ k)) ≤
      l.countP (fun k => decide (lo ≤ k)) :=
  countP_add_le (fun k hk => by simp only [decide_eq_true_eq, decide_eq_false_iff_not] at hk ⊢; omega)
    (fun k hk => by simp only [decide_eq_true_eq] at hk ⊢; omega) l

/-- Outside the three modulation octets each octet stands for an item of its own. -/
theorem allOctets_length_le (l : List Nat) :
    (allOctets l).length ≤ 3 + l.countP (fun k => decide (k < 0x20) || decide (0x50 ≤ k)) := by
  have hcount : ∀ lo hi f, (octetsOf l lo hi f).length = l.countP (fun k => decide (lo ≤ k ∧ k ≤ hi)) :=
    fun lo hi f => by rw [octetsOf, List.length_map, List.countP_eq_length_filter]
  have h50 := countP_range_add_le (lo := 0x50) (hi := 0x57) (next := 0x60) (by decide) (by decide) l
  have h60 := countP_range_add_le (lo := 0x60) (hi := 0x62) (next := 0x70) (by decide) (by decide) l
  have h70 := countP_range_add_le (lo := 0x70) (hi := 0x72) (next := 0x80) (by decide) (by decide) l
  have h80 := countP_range_add_le (lo := 0x80) (hi := 0x87) (next := 0x90) (by decide) (by decide) l
  have h90 := countP_range_add_le (lo := 0x90) (hi := 0x97) (next := 0x98) (by decide) (by decide) l
  have houtside := countP_add_le (p := fun k => decide (0x10 ≤ k ∧ k ≤ 0x17)) (q := fun k => decide (0x50 ≤ k))
    (r := fun k => decide (k < 0x20) || decide (0x50 ≤ k))
    (fun k hk => by
      simp only [decide_eq_true_eq, decide_eq_false_iff_not, Bool.or_eq_true] at hk ⊢
      omega)
    (fun k hk => by rw [hk, Bool.or_true]) l
  simp only [allOctets, modulationOctets, List.length_append, hcount, List.length_cons, List.length_nil]
  omega

end Sys2Proof.Proofs
end

section
/-! # The obligations on the V.8 engine -/

namespace Sys2Proof.Proofs

open Sys2Proof.Machine Sys2Proof.Laws

/-- Settles O46: a start begins the session, then loads the tone or configures the classifier. -/
theorem v8StartStop : Obligations.V8StartStop := by
  unfold Obligations.V8StartStop
  intro s
  refine ⟨fun tone h hsamples => ?_, fun h => ?_, exec_v8Stop s⟩
  · obtain ⟨htone, hstart⟩ := exec_v8Start_send h hsamples
    refine ⟨_, htone, ?_, hstart⟩
    exact toneLoadRegs_active ..
  · have hcfg := exec_detCfg_listen s
    have hstart := exec_v8Start_listen h rfl
    have hstatus : (State.ok (configured listenIds s.begin) [] []).resp.status = some .ok := by rw [ok_resp]
    exact ⟨_, hcfg, hstatus, hstart⟩

/-- Settles O47: the checks of `cap_add` are the causes of `FAIL`, and a set's words are its items in order. -/
theorem capabilityOps : Obligations.CapabilityOps := by
  unfold Obligations.CapabilityOps
  refine fun s => ⟨fun item => reads_of_encode rfl rfl, reads_of_encode rfl rfl, reads_of_encode rfl rfl,
    fun item h => ?_, fun item hvalid hnew hroom => ?_, ?_, ?_⟩
  · refine exec_v8AddCap_refused (Bool.eq_false_iff.mpr (fun hacc => ?_))
    obtain ⟨hvalid, hnew, hroom⟩ := (capAccepts_txItems_iff s item).mp hacc
    rcases h with h | ⟨j, hj, h⟩ | h
    · exact absurd (hvalid.symm.trans h) (by decide)
    · exact hnew j hj h
    · exact hroom h
  · exact ⟨_, exec_v8AddCap_accepted ((capAccepts_txItems_iff s item).mpr ⟨hvalid, hnew, hroom⟩),
      fun a => ramRead_ramWrite ..⟩
  · exact congrArg (fun words => Host.Outcome.next (s.answeredOk words [] [])) (capWords_ramTake s.v8.txcaps s.v8.ntx)
  · exact congrArg (fun words => Host.Outcome.next (s.answeredOk words [] [])) (capWords_ramTake s.v8.rxcaps s.v8.nrx)

/-- Settles O49: the parse item by item, then the marker by buffer, checksum and phase. -/
theorem v8ReceiveMarker : Obligations.V8ReceiveMarker := by
  unfold Obligations.V8ReceiveMarker
  refine ⟨fun buf s hn => ?_, fun b s hphase => ?_⟩
  · obtain ⟨hframe, hcount, hkeeps, hnodup, hoffered, hfull, hbehind⟩ := parsed_menuParse hn buf
    exact ⟨hframe, hcount, hkeeps, hnodup, hoffered, hfull, hbehind⟩
  · intro sync v8Idle codec buf p v same
    have hmenu : sync = 0x00F#10 → s.v8.rxlen ≠ 0#5 → exec (.v8PushRxBit b) s = answerOk
        (markerClear (if same then v8Confirm (menuNoted (shifted b s) p) else menuNoted (shifted b s) p)) [] [] :=
      fun hsync hlen => exec_v8PushRxBit_marker_menu hphase hsync hlen rfl
    refine ⟨fun hsync hidle hb => ?_, fun hsync hlen => ?_, fun hsync hlen hnot => ?_, fun hsync hlen hsame hcm hcall => ?_,
      fun hsync hlen hsame hcm hcall => ?_, fun hsync hlen hsame hanswer => ?_⟩
    · subst hb
      rw [exec_v8PushRxBit_frame hphase hsync, v8FrameBit_mark (by exact (codecAt_v8Codec s) ▸ hidle)]
      rfl
    · exact exec_v8PushRxBit_marker_empty hphase hsync hlen
    · rw [hmenu hsync hlen]
      have hnoted : (if same then v8Confirm (menuNoted (shifted b s) p) else menuNoted (shifted b s) p) =
          menuNoted (shifted b s) p := by
        rcases hnot with hnot | hjm
        · exact if_neg hnot
        · rw [v8Confirm_sentJm (by exact hjm), ite_self]
      rw [hnoted, markerClear_eq]
      rfl
    · have hold : (menuNoted (shifted b s) p).v8.phase = .sentCm := hcm
      rw [hmenu hsync hlen, if_pos hsame, v8Confirm_sentCm hold,
        v8Set_negotiated_outside (by rw [hold]; decide) (by exact hcall), markerClear_eq, hold]
      rfl
    · have hold : (menuNoted (shifted b s) p).v8.phase = .sentCm := hcm
      have hdata := v8Set_negotiated_data (s := s.begin) (t := menuNoted (shifted b s) p)
        (by rw [hold]; decide) hcall ⟨rfl, rfl, rfl, rfl, rfl⟩
      refine ⟨_, exec_fskSelect_dataScheme rfl, ?_⟩
      rw [hmenu hsync hlen, if_pos hsame, v8Confirm_sentCm hold, hdata, markerClear_dataPhase, hold, dataPhase_ok]
      rfl
    · have hjoint : jointItems (menuNoted (shifted b s) p) = (txItems s).filter (fun i => (rxItems p).contains i) := rfl
      have hevent : phaseEvents s.v8.phase .sentJm = [.v8State s.v8.phase .sentJm] :=
        if_neg (by rcases hanswer with h | h <;> rw [h] <;> decide)
      refine ⟨_, storedFrom_ramFill _ _, ?_⟩
      rw [hmenu hsync hlen, if_pos hsame, v8Confirm_answer (by exact hanswer), v8SendJm_eq, hjoint, markerClear_eq,
        ← hevent, Bool.if_true_left]
      generalize menuOctets ((txItems s).filter (fun i => (rxItems p).contains i)) = octets
      rfl

/-- Settles O60: the parser's step, then the byte it gives, then the end of the exchange in `SENT_JM`. -/
theorem v8ReceiveByte : Obligations.V8ReceiveByte := by
  unfold Obligations.V8ReceiveByte
  intro b s hphase sync c hsync
  have hc : s.codecAt v8Codec = c := codecAt_v8Codec s
  have hexec : exec (.v8PushRxBit b) s = answerOk (v8FrameBit b (shifted b s)) [] [] :=
    exec_v8PushRxBit_frame hphase hsync
  refine ⟨pushed 2 b s, exec_frmPush 2 b s, fun h => ?_, fun hstop hb => ?_⟩
  · have hinside : ¬ (((shifted b s).codecAt v8Codec).pst = .stop ∧ b = true) := by
      rintro ⟨hstop, hb⟩
      exact h.elim (fun hn => hn (hc ▸ hstop)) (fun hn => absurd (hb.symm.trans hn) (by decide))
    rw [hexec, v8FrameBit_inside hinside]
    rfl
  · subst hb
    rw [v8FrameBit_byte (s := shifted true s) (by exact hc ▸ hstop)] at hexec
    refine ⟨bufferNext s.v8 c.pacc, ramRead_bufferNext s.v8 c.pacc, fun hgo => ?_, fun hend hcall => ?_,
      fun hend hcall => ?_⟩
    · rw [hexec, if_neg (by exact hgo)]
      rfl
    · have hold : (byteStored (shifted true s)).v8.phase = .sentJm := hend.1
      rw [hexec, if_pos (by exact hend), v8Set_negotiated_outside (by rw [hold]; decide) (by exact hcall), hold]
      rfl
    · have hold : (byteStored (shifted true s)).v8.phase = .sentJm := hend.1
      have hdata := v8Set_negotiated_data (s := (pushed 2 true s).begin) (t := byteStored (shifted true s))
        (by rw [hold]; decide) hcall ⟨rfl, rfl, rfl, rfl, rfl⟩
      rw [hold] at hdata
      refine ⟨_, exec_fskSelect_dataScheme rfl, ?_⟩
      rw [hexec, if_pos (by exact hend), hdata, dataPhase_ok]
      rfl

/-- Settles O50: no octet is cut off, and the octets of each group are read back as the items of the group. -/
theorem menuRoundTrip : Obligations.MenuRoundTrip := by
  unfold Obligations.MenuRoundTrip
  intro items _ hvalid hfit i
  have hsorted := (items.map BitVec.toNat).perm_insertionSort (· ≤ ·)
  have hlength : (allOctets ((items.map BitVec.toNat).insertionSort (· ≤ ·))).length ≤ 16 := by
    have hcount := hsorted.countP_eq (fun k => decide (k < 0x20) || decide (0x50 ≤ k))
    rw [List.countP_map] at hcount
    have hle := allOctets_length_le ((items.map BitVec.toNat).insertionSort (· ≤ ·))
    rw [hcount, List.countP_eq_length_filter] at hle
    exact hle.trans (Nat.add_le_add_left hfit 3)
  have hoffers : ∀ lo hi, offers ((items.map BitVec.toNat).insertionSort (· ≤ ·)) lo hi i ↔
      i ∈ items ∧ lo ≤ i.toNat ∧ i.toNat ≤ hi := by
    intro lo hi
    simp only [offers, hsorted.mem_iff, List.mem_map]
    constructor
    · rintro ⟨k, ⟨j, hj, rfl⟩, hrange, rfl⟩
      rw [BitVec.ofNat_toNat, BitVec.setWidth_eq]
      exact ⟨hj, hrange⟩
    · rintro ⟨hi, hrange⟩
      exact ⟨i.toNat, ⟨i, hi, rfl⟩, hrange, by rw [BitVec.ofNat_toNat, BitVec.setWidth_eq]⟩
  rw [menuOctets_eq_take, List.take_of_length_le hlength, mem_menuItems_allOctets]
  simp only [hoffers]
  constructor
  · rintro ⟨r, -, hi, -⟩
    exact hi
  · intro hi
    obtain ⟨r, hr, hrange⟩ := List.any_eq_true.mp (hvalid i hi)
    exact ⟨r, hr, hi, of_decide_eq_true hrange⟩

/-- Settles O51: the engine's operations at rest, and what every other operation keeps. -/
theorem terminalPhases : Obligations.TerminalPhases := by
  unfold Obligations.TerminalPhases
  refine ⟨fun s h => ?_, fun i s t h hstart hdial => exec_rest h hstart hdial t⟩
  have hb : restPhase s.begin.v8.phase := h
  have hzeros := v8TxSample_rest hb
  refine ⟨exec_v8Tx_zeros hzeros, fun xs => exec_v8Rx_unchanged (v8RxBlock_rest hb xs), ?_, fun b => ?_,
    fun hcall => ⟨fun count => ?_, fun xs => ?_⟩⟩
  · rw [exec_v8PopTxBit, v8PopTxBit_rest hb]
    rfl
  · change answerOk (v8PushRxBit b s.begin) [] [] = _
    rw [v8PushRxBit_rest hb, answerOk_begin]
  · have hpull : pullSample s.begin = (s.begin, 0#32) := (pullSample_v8 (s := s.begin) hcall).trans hzeros
    change execPull count s = _
    rw [execPull, synth_idle hpull]
    rfl
  · change answerOk (pushBlock xs s.begin) [] [] = _
    rw [pushBlock_v8 (s := s.begin) hcall, v8RxBlock_rest hb, answerOk_begin]

/-- Settles O52: one sample, or one block of the classifier, by the phase and by what ends in it. -/
theorem v8Samples : Obligations.V8Samples := by
  unfold Obligations.V8Samples
  refine ⟨fun count s hp h => ?_, fun s hp ha hf hl hsucc husable => ?_, fun count s h => ?_,
    fun c s hphase hscheme htxen hc => ?_, fun xs s hp hn hfill hlen husable => ?_, fun xs s h => ?_,
    fun x c s hphase hscheme hc => ?_⟩
  · exact ⟨_, exec_toneTx count s, exec_v8Tx_txAns hp (h.imp_right or_assoc.mpr)⟩
  · have hend := (exec_v8Tx_txAns hp (.inr (.inr rfl))).trans (exec_toneTx_one_answer ha hf hl hsucc hp)
    exact ⟨_, { toneNext s.tone with active := false }, callMenuOut s, _, exec_fskSelect_usable husable, rfl,
      toneNext_id s.tone, callMenuOut_storedFrom s, hend⟩
  · refine exec_v8Tx_zeros ?_ count
    rcases h with h | h | ⟨hsend, hoff⟩
    · exact v8TxSample_silent (by simp [sendingPhase, h])
    · exact v8TxSample_silent (by simp [sendingPhase, h])
    · exact (v8TxSample_sending (s := s.begin) hsend).trans (modSample_off s.begin v8PopTxBit hoff)
  · exact ⟨exec_v8Tx_inside hphase hscheme htxen hc,
      fun hclk => ⟨_, exec_v8PopTxBit s, exec_v8Tx_wrap hphase hscheme htxen hc hclk rfl⟩⟩
  · obtain ⟨hrate, hv8, hresp⟩ : (detect false xs s.begin).1.srate = s.srate ∧ (detect false xs s.begin).1.v8 = s.v8 ∧
        (detect false xs s.begin).1.resp = Response.empty := by simp
    refine ⟨_, _, _, _, _, rfl, rfl, exec_fskSelect_usable (by rwa [ok_srate, hrate]), ?_⟩
    rw [exec_v8Rx_rxAns hp hn hfill hlen]
    exact answerOk_answerSeen _ hresp (hv8 ▸ hp) _
  · refine exec_v8Rx_unchanged ?_
    rcases h with h | ⟨hmenu, hscheme⟩
    · exact v8RxLoop_deaf (s := s.begin) (.inr (.inl h)) _ xs
    · exact v8RxLoop_noScheme (s := s.begin) hmenu hscheme _ xs
  · intro s1 est r s2
    have hs1 : s.setChan c ((s.chanAt c).store x) = s1 := by rw [setChan_fin, chanAt_fin]
    have hest : newEstimate s c x = est := by rw [newEstimate, hs1]
    have hr : heard s c x = r := by rw [heard, hest, chanAt_fin]
    have hs2 : s.setChan c r.1 = s2 := setChan_fin s c r.1
    refine ⟨fun hend => ?_, fun hend => ⟨_, rfl, ?_⟩⟩
    · rw [exec_v8Rx_inside hphase hscheme hc (hr ▸ hend), hr, hs2]
    · rw [exec_v8Rx_wrap hphase hscheme hc (hr ▸ hend), hest, hr, hs2]
      rfl

end Sys2Proof.Proofs
end

section
/-! # The register table and the memories as `RD_REG` and `RD_MEM` read them (`spec/45_control.md` R314 to R316, `spec/20_memory.md`
R61, R62) -/

namespace Sys2Proof.Proofs

open Sys2Proof.Machine Sys2Proof.Laws

variable (s : State)

/-! ### What an entry of a list of ranges admits -/

theorem inRanges_of_mem {ranges : List (Nat × Nat)} {id bound k : Nat} (h : (id, bound) ∈ ranges) (hk : k < bound) :
    inRanges ranges id k = true :=
  List.any_eq_true.mpr ⟨(id, bound), h, by rw [Bool.and_eq_true, beq_iff_eq, decide_eq_true_eq]; exact ⟨rfl, hk⟩⟩

/-! ### Registers -/

/-- The table of R316 lists the ids and ranges whose other values are refused (`spec/60_exceptions.md` R358). -/
theorem regTable_ranges : regTable.map (fun r => (r.id, r.range)) = regRanges := rfl

/-- A register outside the ranges does not read. -/
theorem readReg_outside {id index : Nat} (h : inRanges regRanges id index = false) : readReg id index s = none := by
  rw [readReg]
  cases hfind : regTable.find? (fun r => r.id == id) with
  | none => rfl
  | some r =>
    refine if_neg fun hindex => ?_
    have hid : r.id = id := by simpa using List.find?_some hfind
    have hmem : (id, r.range) ∈ regRanges :=
      hid ▸ regTable_ranges ▸ List.mem_map_of_mem (List.mem_of_find?_eq_some hfind)
    exact absurd ((inRanges_of_mem hmem hindex).symm.trans h) (by decide)

/-- A row of the register table reads at each index of its range. -/
theorem readReg_row {id n : Nat} {value : State → Nat → Word}
    (hrow : regTable.find? (fun r => r.id == id) = some ⟨id, n, value⟩) {index : Nat} (h : index < n) :
    readReg id index s = some (value s index) := by
  rw [readReg, hrow]
  exact if_pos h

theorem exec_rdReg_fail {index : BitVec 8} {id : BitVec 16} (h : inRanges regRanges id.toNat index.toNat = false) :
    exec (.rdReg index id) s = .next (s.answered .fail [] [] []) := by
  change execRdReg index id s = _
  rw [execRdReg, readReg_outside s h]
  rfl

variable {s} in
theorem exec_rdReg {index : BitVec 8} {id : BitVec 16} {v : Word} (h : readReg id.toNat index.toNat s = some v) :
    exec (.rdReg index id) s = .next (s.answeredOk [v] [] []) := by
  change execRdReg index id s = _
  rw [execRdReg, h]
  rfl

variable {s} in
/-- A register without an index is read at index 0. -/
theorem exec_rdReg_single {id : BitVec 16} {v : Word} (h : readReg id.toNat 0 s = some v) :
    exec (.rdReg (BitVec.ofNat 8 0) id) s = .next (s.answeredOk [v] [] []) := exec_rdReg h

variable {s} in
/-- A register array of at most 256 elements, read at an index of it. -/
theorem exec_rdReg_array {id : BitVec 16} {n : Nat} {value : State → Nat → Word} {v : Word} (i : Fin n)
    (hrow : regTable.find? (fun r => r.id == id.toNat) = some ⟨id.toNat, n, value⟩) (hn : n ≤ 256) (hv : value s i.val = v) :
    exec (.rdReg (BitVec.ofNat 8 i.val) id) s = .next (s.answeredOk [v] [] []) :=
  exec_rdReg (by rw [selOf_toNat i hn, readReg_row s hrow i.isLt, hv])

/-! ### Memories -/

theorem memSize_of_le {mem : Nat} (h : 11 ≤ mem) : memSize mem = 0 := by
  unfold memSize
  split <;> omega

theorem mem_memRanges : ∀ mem < 11, (mem, memSize mem) ∈ memRanges := by decide

theorem memSize_le : ∀ mem < 11, memSize mem ≤ 2048 := by decide

/-- A memory that holds an address is one of the eleven. -/
theorem mem_lt_of_lt_memSize {mem a : Nat} (h : a < memSize mem) : mem < 11 := by
  by_contra hmem
  rw [memSize_of_le (by omega)] at h
  omega

theorem exec_rdMem_fail {mem : BitVec 8} {a : BitVec 16} (h : inRanges memRanges mem.toNat a.toNat = false) :
    exec (.rdMem mem a) s = .next (s.answered .fail [] [] []) := by
  have hout : ¬ a.toNat < memSize mem.toNat := fun ha =>
    absurd ((inRanges_of_mem (mem_memRanges _ (mem_lt_of_lt_memSize ha)) ha).symm.trans h) (by decide)
  change execRdMem mem a s = _
  rw [execRdMem, readMem, if_neg hout]
  rfl

variable {s} in
theorem exec_rdMem {mem a : Nat} {v : Word} (ha : a < memSize mem) (hv : memWord mem a s = v) :
    exec (.rdMem (BitVec.ofNat 8 mem) (BitVec.ofNat 16 a)) s = .next (s.answeredOk [v] [] []) := by
  have hmem := mem_lt_of_lt_memSize ha
  have hsize := memSize_le mem hmem
  have hm : (BitVec.ofNat 8 mem).toNat = mem := by rw [BitVec.toNat_ofNat]; omega
  have haddr : (BitVec.ofNat 16 a).toNat = a := by rw [BitVec.toNat_ofNat]; omega
  change execRdMem (BitVec.ofNat 8 mem) (BitVec.ofNat 16 a) s = _
  rw [execRdMem, hm, haddr, readMem, if_pos ha, hv]
  rfl

/-! ### Memories of several equal parts: address `part * size + offset` -/

/-- The part of an address. -/
theorem part_div {size : Nat} (part : Nat) (offset : Fin size) : (part * size + offset.val) / size = part := by
  rw [Nat.mul_comm, Nat.mul_add_div offset.pos, Nat.div_eq_of_lt offset.isLt, Nat.add_zero]

/-- The offset of an address in its part. -/
theorem part_mod {size : Nat} (part : Nat) (offset : Fin size) : (part * size + offset.val) % size = offset.val := by
  rw [Nat.mul_comm, Nat.mul_add_mod, Nat.mod_eq_of_lt offset.isLt]

theorem memWord_iqI (t : Fin 4) (n : Fin 512) :
    memWord 1 (t.val * 512 + n.val) s = (ramRead s.iq[t].i n.val).signExtend 32 := by
  rw [memWord, part_div, part_mod, iqAt_fin]

theorem memWord_iqQ (t : Fin 4) (n : Fin 512) :
    memWord 2 (t.val * 512 + n.val) s = (ramRead s.iq[t].q n.val).signExtend 32 := by
  rw [memWord, part_div, part_mod, iqAt_fin]

theorem memWord_ring (c : Fin 2) (n : Fin 512) :
    memWord 3 (c.val * 512 + n.val) s = ramRead s.chan[c].ring n.val := by
  rw [memWord, part_div, part_mod, chanAt_fin]

theorem memWord_toneRom (id : Fin 32) (j : Fin 16) : memWord 9 (id.val * 16 + j.val) s = toneRomWord id.val j.val := by
  rw [memWord, part_div, part_mod]

theorem memWord_fskRom (id : Fin 8) (j : Fin 16) : memWord 10 (id.val * 16 + j.val) s = fskRomWord id.val j.val := by
  rw [memWord, part_div, part_mod]

end Sys2Proof.Proofs
end

section
/-! # The obligations on control and inspection -/

namespace Sys2Proof.Proofs

open Sys2Proof.Machine Sys2Proof.Laws

theorem exec_setRate (hz : Word) (s : State) :
    exec (.setRate hz) s =
      if hz = 0#32 then .next (s.answered .fail [] [] [])
      else .next (State.answeredOk { State.reset with srate := hz, pending := s.pending } [] [] []) := by
  change execSetRate hz s = _
  unfold execSetRate
  split
  case isTrue => rfl
  case isFalse => rfl

/-- Settles O20: each operation is its own decoded word; only `SET_RATE` has a cause of refusal, the rate 0. -/
theorem controlResults : Obligations.ControlResults := by
  unfold Obligations.ControlResults
  exact ⟨⟨reads_of_encode rfl rfl, fun s => rfl⟩, ⟨reads_of_encode rfl rfl, fun s => rfl⟩,
    fun hz => ⟨reads_of_encode rfl rfl, exec_setRate hz⟩, ⟨reads_of_encode rfl rfl, fun s => rfl⟩⟩

/-- Settles O21: what is outside the tables is refused; a register without an index is read at index 0, an array by its row at each
index, a memory of several parts by the part and the offset of the address. -/
theorem inspectionResults : Obligations.InspectionResults := by
  unfold Obligations.InspectionResults
  refine ⟨fun index id => reads_of_encode rfl rfl, fun mem a => reads_of_encode rfl rfl, fun s =>
    ⟨fun index id => exec_rdReg_fail s, fun mem a => exec_rdMem_fail s, ?registers, ?memories⟩⟩
  case registers =>
    and_intros
    any_goals exact exec_rdReg_single rfl
    · intro u
      rw [← gzAt_fin]
      and_intros <;> exact exec_rdReg_array u rfl (by decide) rfl
    · exact fun t => exec_rdReg_array t rfl (by decide) (congrArg (ureg ·.len) (iqAt_fin s t))
    · intro k
      rw [← codecAt_fin]
      and_intros <;> exact exec_rdReg_array k rfl (by decide) rfl
    · exact fun i => exec_rdReg_array i rfl (by decide) (congrArg ureg (vget_fin s.det.candId 0#8 i))
    · exact fun j => ⟨exec_rdReg_array j rfl (by decide) (vget_fin s.det.fa 0#32 j),
        exec_rdReg_array j rfl (by decide) (vget_fin s.det.fb 0#32 j)⟩
    · intro c
      rw [← chanAt_fin]
      and_intros <;> exact exec_rdReg_array c rfl (by decide) rfl
  case memories =>
    refine ⟨fun k => exec_rdMem k.isLt rfl, fun t n => ⟨exec_rdMem ?_ (memWord_iqI s t n), exec_rdMem ?_ (memWord_iqQ s t n)⟩,
      fun c n => exec_rdMem ?_ (memWord_ring s c n), fun a => exec_rdMem a.isLt rfl,
      fun a => ⟨exec_rdMem a.isLt rfl, exec_rdMem a.isLt rfl, exec_rdMem a.isLt rfl, exec_rdMem a.isLt rfl⟩,
      fun id j => exec_rdMem ?_ (memWord_toneRom s id j), fun id j => exec_rdMem ?_ (memWord_fskRom s id j)⟩ <;>
    · simp only [memSize]
      omega

end Sys2Proof.Proofs
end

section
/-! # The timers between operations -/

namespace Sys2Proof.Proofs

open Sys2Proof.Machine Sys2Proof.Laws

/-! ### The bits of `TIMER_PEND` -/

theorem timerPending_postDial (s : State) : s.timerPending .postDial = s.timerPend.getLsbD 0 :=
  (by decide : ∀ v : BitVec 2, decide (v &&& 0b01#2 ≠ 0#2) = v.getLsbD 0) s.timerPend

theorem timerPending_preData (s : State) : s.timerPending .preData = s.timerPend.getLsbD 1 :=
  (by decide : ∀ v : BitVec 2, decide (v &&& 0b10#2 ≠ 0#2) = v.getLsbD 1) s.timerPend

/-! ### The timer invariants as one fact -/

/-- Every pending timer was requested in the call state that requests it (`spec/46_facade_host.md` R326, R336). -/
def timersRequested (s : State) : Prop := ∀ w : Timer, s.timerPending w = true → s.callState = requestState w

theorem timerInv_iff (s : State) : timersRequested s ↔ s.timerInv := by
  unfold State.timerInv
  rw [← timerPending_postDial, ← timerPending_preData]
  exact ⟨fun h => ⟨h .postDial, h .preData⟩, fun ⟨hpost, hpre⟩ w => by cases w; exacts [hpost, hpre]⟩

/-- A timer that is cleared is not pending, the other is as before. -/
theorem timerPending_clearTimer (s : State) (w w' : Timer) :
    (s.clearTimer w).timerPending w' = (s.timerPending w' && decide (w' ≠ w)) := by
  have hbits : ∀ v : BitVec 2,
      decide (v &&& ~~~ timerBit w &&& timerBit w' ≠ 0#2) = (decide (v &&& timerBit w' ≠ 0#2) && decide (w' ≠ w)) := by
    cases w <;> cases w' <;> decide
  exact hbits s.timerPend

/-- A timer that is requested is pending, the other is as before. -/
theorem timerPending_request (s : State) (w w' : Timer) :
    State.timerPending { s with timerPend := s.timerPend ||| timerBit w } w' = (s.timerPending w' || decide (w' = w)) := by
  have hbits : ∀ v : BitVec 2,
      decide ((v ||| timerBit w) &&& timerBit w' ≠ 0#2) = (decide (v &&& timerBit w' ≠ 0#2) || decide (w' = w)) := by
    cases w <;> cases w' <;> decide
  exact hbits s.timerPend

/-! ### One move -/

theorem timersRequested_congr {s t : State} (hs : timersRequested s) (hc : t.callState = s.callState)
    (hp : t.timerPend = s.timerPend) : timersRequested t := by
  intro w hw
  rw [State.timerPending, hp] at hw
  exact hc.trans (hs w hw)

/-- A change of the call state while no timer is pending. -/
theorem timersRequested_of_none {s t : State} (hs : timersRequested s) (hc : ∀ w, s.callState ≠ requestState w)
    (hp : t.timerPend = s.timerPend) : timersRequested t := by
  intro w hw
  rw [State.timerPending, hp] at hw
  exact absurd (hs w hw) (hc w)

theorem Move.timersRequested {s t : State} (h : Move s t) (hs : Proofs.timersRequested s) : Proofs.timersRequested t := by
  cases h with
  | offHook tone hc => exact timersRequested_of_none hs (fun w => by cases w <;> simp [hc, requestState]) rfl
  | dial hc => exact timersRequested_of_none hs (fun w => by cases w <;> simp [hc, requestState]) rfl
  | data hc => exact timersRequested_of_none hs (fun w => by cases w <;> simp [hc, requestState]) rfl
  | answer hp =>
    intro w hw
    have hpend : (s.clearTimer .postDial).timerPending w = true := hw
    rw [timerPending_clearTimer, Bool.and_eq_true, decide_eq_true_iff] at hpend
    obtain ⟨hpend, hne⟩ := hpend
    cases w with
    | postDial => exact absurd rfl hne
    | preData => exact absurd ((hs _ hp).symm.trans (hs _ hpend)) (by decide)
  | request w hc =>
    intro w' hw
    rw [timerPending_request, Bool.or_eq_true, decide_eq_true_iff] at hw
    rcases hw with hw | rfl
    · exact hs w' hw
    · exact hc
  | clearPreData =>
    intro w hw
    rw [timerPending_clearTimer, Bool.and_eq_true] at hw
    exact hs w hw.1
  | _ => exact timersRequested_congr hs (by simp) (by simp)

theorem kept_timerInv : Kept State.timerInv := by
  have hreset : ∀ s : State, s.timerPend = 0#2 → timersRequested s := fun s h w hw => by
    simp [State.timerPending, h] at hw
  refine Kept.congr (p := timersRequested) ?_ timerInv_iff
  exact {
    ports := fun _ _ _ h => h
    reset := fun _ _ => hreset _ rfl
    onHook := fun _ _ => hreset _ rfl
    order := fun _ _ _ h => h
    addCap := fun s i u hu h => by
      obtain ⟨-, rfl⟩ := (txCapAdd_eq_some s i u).mp hu
      exact h
    move := fun _ _ hm h => hm.timersRequested h }

end Sys2Proof.Proofs
end

section
/-! # Going on hook and off hook (`spec/46_facade_host.md` R327 to R332) -/

namespace Sys2Proof.Proofs

open Sys2Proof.Machine Sys2Proof.Laws

/-! ### On hook -/

theorem vecOf_three {α : Type} (f : Nat → α) : vecOf 3 f = #v[f 0, f 1, f 2] := rfl

/-- All that going on hook keeps: the rate, the bit orders and the transmit capability set (R327). -/
theorem goOnHook_eq (s : State) :
    goOnHook s =
      { State.reset with
        srate := s.srate
        codec := #v[s.codec[(0 : Fin 3)].clear, s.codec[(1 : Fin 3)].clear, s.codec[(2 : Fin 3)].clear]
        v8 := { V8Regs.reset with ntx := s.v8.ntx, txcaps := s.v8.txcaps }
        pending := s.pending
        resp := s.resp } := by
  rw [goOnHook, vecOf_three, ← codecAt_fin, ← codecAt_fin, ← codecAt_fin]
  rfl

theorem exec_setOnHook (s : State) : exec .setOnHook s = .next ((goOnHook s).answeredOk [] [] []) := rfl

theorem exec_isOnHook (s : State) :
    exec .isOnHook s = .next (s.answeredOk [if s.callState = .onHook then 1#32 else 0#32] [] []) := by
  change answerOk s.begin [bitWord (decide (s.callState = .onHook))] [] = _
  simp only [answerOk_begin, bitWord, decide_eq_true_eq]

/-! ### Off hook -/

/-- The argument words of `DET_CFG` for the sixteen DTMF tones (R328). -/
def dtmfWords : List Word :=
  [1#32, 2#32, 3#32, 4#32, 5#32, 6#32, 7#32, 8#32, 9#32, 10#32, 11#32, 12#32, 13#32, 14#32, 15#32, 16#32]

theorem exec_detCfg_dtmf (s : State) :
    exec (.detCfg dtmfWords) s = .next (State.ok (configured dtmfIds s.begin) [] []) := by
  have hok : failCause (.detCfg dtmfWords) s = false := by
    change failCause (.detCfg dtmfWords) State.reset = false
    decide
  have hids : dtmfWords.map BitVec.toNat = dtmfIds := rfl
  rw [exec_detCfg hok, hids, answerOk]

/-- Going off hook sets the call state and the dial tone, starts the tone and configures the classifier (R328). -/
theorem goOffHook_eq (t : Byte) (s : State) :
    goOffHook t s =
      configured dtmfIds (toneStart t 0#32 16384#32 0xFFFF#16 { s with callState := .offHookIdle, dialTone := t }) := by
  have hcfg := fun u : State => (detCfg_eq_some u dtmfIds (configured dtmfIds u)).mpr ⟨by decide, by decide, rfl⟩
  simp only [goOffHook, hcfg, Option.getD_some]
  rfl

theorem configured_callState (ids : List Nat) (s : State) : (configured ids s).callState = s.callState := by
  rw [configured_eq]

theorem goOffHook_callState (t : Byte) (s : State) : (goOffHook t s).callState = .offHookIdle := by
  rw [goOffHook_eq, configured_callState, (toneStart_keeps _ _ _ _ _).2.1]

/-- With a dial tone that has samples: what `TONE_START` loads and what `DET_CFG` configures, and nothing else (R328). -/
theorem goOffHook_loaded {t : Byte} {s : State}
    (h : (toneDesc t.toNat).playMs = 0 ∨ msToSamples s.srate (toneDesc t.toNat).playMs ≠ 0#32) :
    goOffHook t s =
      { s with
        callState := .offHookIdle
        dialTone := t
        tone := toneLoadRegs s.srate t 0#32 16384#32 0xFFFF#16
        det := (configured dtmfIds s).det
        gz := (configured dtmfIds s).gz } := by
  have hload := toneStart_loaded (id := t) (gain := 16384#32) (so := 0xFFFF#16)
    (s := { s with callState := .offHookIdle, dialTone := t }) h
  have hdet : (configured dtmfIds s).det = detRegs dtmfIds (subsetA dtmfIds) (subsetB dtmfIds) := by rw [configured_eq]
  rw [goOffHook_eq, hload, configured_eq, gz_configured_congr (s := s) (by decide) rfl rfl, hdet]
  rfl

theorem exec_setOffHook {t : Byte} {s : State} (hc : s.callState = .onHook) (ht : toneValid t.toNat = true) :
    exec (.setOffHook t) s = answerOk (goOffHook t s.begin) [] [] := by
  change execSetOffHook t s = _
  rw [execSetOffHook, if_neg (by simp [hc, ht])]

theorem exec_setOffHook_fail {t : Byte} {s : State} (h : s.callState ≠ .onHook ∨ toneValid t.toNat = false) :
    exec (.setOffHook t) s = answerFail s := by
  change execSetOffHook t s = _
  rw [execSetOffHook, if_pos h]

/-- `SET_OFF_HOOK` of a tone that has samples: `u` is what `TONE_START` of it leaves, `w` what `DET_CFG` of the DTMF tones leaves
(R328, R332). -/
theorem exec_setOffHook_loaded {t : Byte} {s u w : State} (hc : s.callState = .onHook) (ht : toneValid t.toNat = true)
    (h : (toneDesc t.toNat).playMs = 0 ∨ msToSamples s.srate (toneDesc t.toNat).playMs ≠ 0#32)
    (hu : u = State.ok (toneLoad t 0#32 16384#32 0xFFFF#16 s.begin) [] [])
    (hw : w = State.ok (configured dtmfIds s.begin) [] []) :
    exec (.setOffHook t) s = .next (State.answeredOk
      { s with callState := .offHookIdle, dialTone := t, tone := u.tone, det := w.det, gz := w.gz } [] [] []) := by
  have htone : toneLoadRegs s.begin.srate t 0#32 16384#32 0xFFFF#16 = u.tone := by rw [hu, ok_tone, toneLoad_tone]
  have hdet : (configured dtmfIds s.begin).det = w.det := by rw [hw, ok_det]
  have hgz : (configured dtmfIds s.begin).gz = w.gz := by rw [hw, ok_gz]
  rw [exec_setOffHook hc ht, goOffHook_loaded (s := s.begin) h, htone, hdet, hgz]
  rfl

/-! ### Restarting -/

theorem exec_restart {t : Byte} {s : State} (ht : toneValid t.toNat = true) :
    exec (.restart t) s = answerOk (goOffHook t (goOnHook s.begin)) [] [] := by
  change execRestart t s = _
  rw [execRestart, if_pos ht]

theorem exec_restart_fail {t : Byte} {s : State} (ht : toneValid t.toNat = false) :
    exec (.restart t) s = answerFail s := by
  change execRestart t s = _
  rw [execRestart, if_neg (by simp [ht])]

end Sys2Proof.Proofs
end

section
/-! # Firing the timers (`spec/46_facade_host.md` R337, R338, R342) -/

namespace Sys2Proof.Proofs

open Sys2Proof.Machine Sys2Proof.Laws

variable {s : State}

theorem exec_timerFire_fail {w : Timer} (h : failCause (.timerFire w) s = true) : exec (.timerFire w) s = answerFail s := by
  change execTimerFire w s = _
  unfold execTimerFire
  by_cases hp : s.timerPending w = false
  · rw [if_pos hp]
  · cases w with
    | preData => simp [failCause, hp] at h
    | postDial =>
      rw [if_neg hp]
      exact if_pos (by simpa [failCause, hp] using h)

/-! ### The post-dial timer -/

/-- At a rate that V21 is usable at, the answer tone has samples. -/
theorem answerTone_samples {srate : Word} (h : schemeUsable srate 1 = true) :
    msToSamples srate (toneDesc (0x15#16 : BitVec 16).toNat).playMs ≠ 0#32 := by
  have husable : symlenUsable srate 30000 = true := by
    have hall := (Bool.and_eq_true_iff.mp h).2
    exact List.all_eq_true.mp hall 0 (by decide)
  obtain ⟨hlow, hhigh⟩ := Bool.and_eq_true_iff.mp husable
  have hlow : 1 ≤ 100 * srate.toNat / 30000 := of_decide_eq_true hlow
  have hhigh : 100 * srate.toNat / 30000 ≤ 512 := of_decide_eq_true hhigh
  have hplay : (toneDesc (0x15#16 : BitVec 16).toNat).playMs = 3300 := by decide
  have hrate : 300 ≤ srate.toNat ∧ srate.toNat ≤ 153899 := by omega
  rw [hplay, msToSamples]
  intro hzero
  have hmod := congrArg BitVec.toNat hzero
  rw [BitVec.toNat_ofNat, Nat.mod_eq_of_lt (by omega)] at hmod
  change 3300 * srate.toNat / 1000 = 0 at hmod
  omega

theorem exec_timerFire_postDial (hp : s.timerPending .postDial = true) (hu : schemeUsable s.srate 1 = true) :
    exec (.timerFire .postDial) s = answerOk (postDial (s.begin.clearTimer .postDial)) [] [] := by
  change execTimerFire .postDial s = _
  unfold execTimerFire
  rw [if_neg (by simp [hp])]
  exact if_neg (by rw [v8Scheme_eq]; simpa using hu)

/-- The classifier, the timers and the call state do not matter for what the start of the engine does (R338). -/
theorem postDial_eq (hu : schemeUsable s.srate 1 = true) :
    postDial s =
      { toneLoad 0x15#8 0#32 16384#32 0xFFFF#16 (sessionBegun .send .txAns s) with
        callState := .v8
        det := Detector.reset
        resp := withPhaseEvents s.resp s.v8.phase .txAns } := by
  have hload := toneStart_loaded (id := 0x15#8) (gain := 16384#32) (so := 0xFFFF#16)
    (s := { sessionBegun .send .txAns { detOff s with callState := .v8 } with
      resp := withPhaseEvents s.resp s.v8.phase .txAns }) (.inr (answerTone_samples hu))
  rw [postDial, v8AnswerTone_eq, v8Start_send]
  exact hload

/-! ### The pre-data timer -/

theorem queued_count {q : TxQueue} (h : q.count.toNat < 64) (b : Byte) : (queued q b).count.toNat = q.count.toNat + 1 := by
  change (q.count + 1#7).toNat = _
  bv_omega

/-- The queue with bytes behind the newest one. -/
def queuedAll (q : TxQueue) (bs : List Byte) : TxQueue := bs.foldl queued q

theorem queuedAll_cons (q : TxQueue) (b : Byte) (bs : List Byte) : queuedAll q (b :: bs) = queuedAll (queued q b) bs := rfl

theorem queuedAll_head (q : TxQueue) (bs : List Byte) : (queuedAll q bs).head = q.head := by
  induction bs generalizing q with
  | nil => rfl
  | cons b bs ih => exact ih (queued q b)

section
variable {q : TxQueue} {bs : List Byte}

theorem queuedAll_count (hl : q.count.toNat + bs.length ≤ 64) :
    (queuedAll q bs).count.toNat = q.count.toNat + bs.length := by
  induction bs generalizing q with
  | nil => rfl
  | cons b bs ih =>
    rw [List.length_cons] at hl ⊢
    have hcount := queued_count (q := q) (by omega) b
    rw [queuedAll_cons, ih (by omega), hcount]
    omega

/-- The words that no byte is put into read as before. -/
theorem ramRead_queuedAll_other (hl : q.count.toNat + bs.length ≤ 64) {a : Nat}
    (ha : ∀ j, j < bs.length → a ≠ (q.head.toNat + q.count.toNat + j) % 64) :
    ramRead (queuedAll q bs).mem a = ramRead q.mem a := by
  induction bs generalizing q with
  | nil => rfl
  | cons b bs ih =>
    rw [List.length_cons] at hl ha
    have hcount := queued_count (q := q) (by omega) b
    have hrest : ramRead (queuedAll (queued q b) bs).mem a = ramRead (queued q b).mem a := by
      refine ih (by omega) (fun j hj => ?_)
      have hne := ha (j + 1) (by omega)
      have hhead : (queued q b).head = q.head := rfl
      rw [hcount, hhead]
      omega
    rw [queuedAll_cons, hrest, queued, ramRead_ramWrite]
    exact if_neg (ha 0 (by omega))

/-- The bytes stand in order behind the newest one. -/
theorem ramRead_queuedAll_new (hl : q.count.toNat + bs.length ≤ 64) {j : Nat} (hj : j < bs.length) :
    ramRead (queuedAll q bs).mem ((q.head.toNat + q.count.toNat + j) % 64) = bs[j] := by
  induction bs generalizing q j with
  | nil => simp at hj
  | cons b bs ih =>
    rw [List.length_cons] at hl hj
    have hcount := queued_count (q := q) (by omega) b
    have hhead : (queued q b).head = q.head := rfl
    cases j with
    | zero =>
      have hkeep : ramRead (queuedAll (queued q b) bs).mem ((q.head.toNat + q.count.toNat) % 64) =
          ramRead (queued q b).mem ((q.head.toNat + q.count.toNat) % 64) := by
        refine ramRead_queuedAll_other (by omega) (fun j hj' => ?_)
        rw [hcount, hhead]
        omega
      exact hkeep.trans (ramRead_ramWrite_same _ _ _)
    | succ j =>
      have hrest := ih (q := queued q b) (by omega) (j := j) (by omega)
      rw [hcount, hhead] at hrest
      rwa [queuedAll_cons, ← Nat.add_assoc, Nat.add_right_comm _ j 1]

end

/-- Bytes offered to the queue: those that fit go in, the others are dropped (R342). -/
theorem foldl_txqOffer (bs : List Byte) (hs : s.txq.count.toNat ≤ 64) :
    bs.foldl txqOffer s = { s with txq := queuedAll s.txq (bs.take (64 - s.txq.count.toNat)) } := by
  induction bs generalizing s with
  | nil => rw [List.take_nil]; rfl
  | cons b bs ih =>
    rw [List.foldl_cons]
    rcases Nat.lt_or_eq_of_le hs with hroom | hfull
    · rw [txqOffer_put hroom.ne]
      have hcount := queued_count hroom b
      rw [ih (by change (queued s.txq b).count.toNat ≤ 64; omega)]
      simp only [hcount]
      obtain ⟨n, hn⟩ : ∃ n, 64 - s.txq.count.toNat = n + 1 := ⟨63 - s.txq.count.toNat, by omega⟩
      rw [hn, show 64 - (s.txq.count.toNat + 1) = n by omega, List.take_succ_cons]
      rfl
    · rw [txqOffer_full hfull, ih hs, hfull]
      rfl

/-- The pre-data timer clears its bit and queues the bootstrap bytes that fit (R337, R342). -/
theorem exec_timerFire_preData (hp : s.timerPending .preData = true) (hs : s.txq.count.toNat ≤ 64) :
    exec (.timerFire .preData) s = .next (State.answeredOk
      { s with
        timerPend := s.timerPend &&& 0b01#2
        txq :=
          { mem := (queuedAll s.txq (Config.bootstrap.take (64 - s.txq.count.toNat))).mem
            head := s.txq.head
            count := (queuedAll s.txq (Config.bootstrap.take (64 - s.txq.count.toNat))).count } } [] [] []) := by
  have hhead := queuedAll_head s.txq (Config.bootstrap.take (64 - s.txq.count.toNat))
  change execTimerFire .preData s = _
  rw [execTimerFire, if_neg (by simp [hp]), bootstrap, foldl_txqOffer _ (s := s.begin.clearTimer .preData) hs, ← hhead]
  rfl

end Sys2Proof.Proofs
end

section
/-! # Samples through the façade (`spec/46_facade_host.md` R333 to R336) -/

namespace Sys2Proof.Proofs

open Sys2Proof.Machine Sys2Proof.Laws

variable {s : State}

/-! ### `PULL` -/

/-- Two sources that agree while a property holds, which the first keeps, give the same block. -/
theorem synth_congr {p : State → Prop} {f g : State → State × Word} (hkeep : ∀ u, p u → p (f u).1)
    (heq : ∀ u, p u → f u = g u) (n : Nat) {s : State} (hs : p s) : synth f n s = synth g n s := by
  induction n generalizing s with
  | zero => rfl
  | succ n ih => simp only [synth, ih (hkeep s hs), ← heq s hs]

theorem pullSample_offHook (h : s.callState = .offHookIdle) : pullSample s = toneSample s := by
  unfold pullSample
  rw [h]

theorem pullSample_data (h : s.callState = .data) : pullSample s = modSample dataPopTxBit s := by
  unfold pullSample
  rw [h]

theorem exec_pull (count : BitVec 16) (s : State) :
    exec (.pull count) s =
      answerOk (synth pullSample count.toNat s.begin).1 [count.setWidth 32] (synth pullSample count.toNat s.begin).2 := rfl

/-- On hook and while dialing there is no source. -/
theorem exec_pull_silent (count : BitVec 16) (h : s.callState = .onHook ∨ s.callState = .dialing) :
    exec (.pull count) s = .next (s.answeredOk [count.setWidth 32] (List.replicate count.toNat 0#32) []) := by
  have hsilent : pullSample s.begin = (s.begin, 0#32) := by
    unfold pullSample
    rcases h with h | h <;> rw [begin_callState, h]
  rw [exec_pull, synth_idle hsilent]
  rfl

/-- `PULL` in a call state in which its source is that of the operation `i`. -/
theorem exec_pull_relays {f : State → State × Word} {i : Instr} {count : BitVec 16}
    (hsource : ∀ u, u.callState = s.callState → pullSample u = f u)
    (hi : exec i s = answerOk (synth f count.toNat s.begin).1 [] (synth f count.toNat s.begin).2) :
    ∃ t : State, exec i s = .next t ∧ t.callState = s.callState ∧
      exec (.pull count) s = .next (t.answeredOk [count.setWidth 32] t.resp.samples t.resp.events) := by
  have hkeep : ∀ u : State, (pullSample u).1.callState = u.callState := fun u => (pullSample_keeps u).2.1
  have hblock : synth pullSample count.toNat s.begin = synth f count.toNat s.begin :=
    synth_congr (p := fun u => u.callState = s.callState) (fun u hu => (hkeep u).trans hu) hsource _ rfl
  refine ⟨_, hi, ?_, ?_⟩
  · rw [ok_callState, ← hblock]
    exact synth_keeps State.callState pullSample hkeep _ s.begin
  · rw [exec_pull, hblock]
    rfl

/-! ### `PUSH` into the classifier -/

/-- A block of no more samples than are left is taken whole by both variants, and by a classifier that is off
(`spec/42_tone_engine.md` R204). -/
theorem detect_takes_all (dual : Bool) {xs : List Word} (hfill : s.det.fill.toNat < 256)
    (h : s.det.fill.toNat + xs.length ≤ 256) : (detect dual xs s).2.used = xs.length := by
  by_cases hn : s.det.n = 0#5
  · simp [detect, hn]
  · rcases Nat.lt_or_eq_of_le h with hin | hend
    · rw [detect_inside hn hin]
    · rw [detect_end_eq hn hfill hend.ge]
      exact (Nat.eq_sub_of_add_eq' hend).symm

theorem pushDetectLoop_nil (fuel : Nat) (s : State) : pushDetectLoop fuel [] s = s := by
  cases fuel <;> rfl

/-- A block that the classifier takes whole needs one turn (R334). -/
theorem pushDetectLoop_block {xs : List Word} (hne : xs ≠ []) (hused : (detect true xs s).2.used = xs.length) (fuel : Nat) :
    pushDetectLoop (fuel + 1) xs s =
      if (detect true xs s).2.isDigit then digit (detect true xs s).1 else (detect true xs s).1 := by
  obtain ⟨x, xs, rfl⟩ := List.exists_cons_of_ne_nil hne
  rw [pushDetectLoop, hused, List.drop_length, pushDetectLoop_nil]

theorem isDigit_iff (d : Detection) :
    d.isDigit = true ↔ classCode d.cls = 2#32 ∧ 1 ≤ d.id.toNat ∧ d.id.toNat ≤ 0x10 := by
  rw [classCode_eq_new]
  simp [Detection.isDigit, and_assoc]

/-- A digit silences the tone off hook, and asks for the post-dial timer (R335, R336). -/
theorem digit_eq (h : digitState s) :
    digit s =
      { s with
        tone := if s.callState = .offHookIdle then ToneTx.reset else s.tone
        callState := .dialing
        timerPend := s.timerPend ||| 0b01#2
        resp := { s.resp with events := s.resp.events ++ [.timerReq .postDial] } } := by
  unfold digit
  split
  case isTrue hc => rfl
  case isFalse hc => rw [← h.resolve_left hc]; rfl

/-- `PUSH` where samples are searched for digits is one run of the loop. -/
theorem pushBlock_digits (h : digitState s) (xs : List Word) : pushBlock xs s = pushDetectLoop (xs.length + 1) xs s := by
  unfold pushBlock
  rcases h with h | h <;> rw [h]

theorem pushBlock_data (h : s.callState = .data) (xs : List Word) : pushBlock xs s = demBlock dataPushRxBit xs s := by
  unfold pushBlock
  rw [h]

theorem pushBlock_onHook (h : s.callState = .onHook) (xs : List Word) : pushBlock xs s = s := by
  unfold pushBlock
  rw [h]

theorem exec_push (xs : List Word) (s : State) : exec (.push xs) s = answerOk (pushBlock xs s.begin) [] [] := rfl

/-- What `PUSH` makes of the answer of `DET_DUAL`. -/
theorem answerOk_digit {u : State} (d : Detection) (hu : digitState u) (hresp : u.resp = Response.empty) (words : List Word) :
    answerOk (if d.isDigit then digit u else u) [] [] = .next (
      if classCode d.cls = 2#32 ∧ 1 ≤ d.id.toNat ∧ d.id.toNat ≤ 0x10 then
        State.answeredOk
          { u.ok words [] with
            tone := if u.callState = .offHookIdle then ToneTx.reset else u.tone,
            callState := .dialing,
            timerPend := u.timerPend ||| 0b01#2 } [] [] [.timerReq .postDial]
      else (u.ok words []).answeredOk [] [] []) := by
  simp only [← isDigit_iff]
  split
  case isTrue =>
    rw [digit_eq hu, answerOk, ok_eq, hresp]
    rfl
  case isFalse =>
    rw [answerOk, ok_eq, hresp]
    rfl

/-- `PUSH` off hook or while dialing, up to the end of the classifier's block (R334). -/
theorem exec_push_digits {xs : List Word} (h : digitState s) (hne : 1 ≤ xs.length) (hlen : s.det.fill.toNat + xs.length ≤ 256) :
    ∃ (t : State) (cls used : Word) (id : Byte), exec (.detDual xs) s = .next t ∧
      t.resp.results = [cls, id.setWidth 32, used] ∧
      exec (.push xs) s = .next (
        if cls = 2#32 ∧ 1 ≤ id.toNat ∧ id.toNat ≤ 0x10 then
          State.answeredOk
            { t with
              tone := if s.callState = .offHookIdle then ToneTx.reset else s.tone,
              callState := .dialing,
              timerPend := s.timerPend ||| 0b01#2 } [] [] [.timerReq .postDial]
        else t.answeredOk [] [] []) := by
  have hused := detect_takes_all (s := s.begin) true (xs := xs) (show s.det.fill.toNat < 256 by omega) hlen
  refine ⟨_, _, _, _, exec_detect true xs s, rfl, ?_⟩
  have hblock := pushDetectLoop_block (List.ne_nil_of_length_pos hne) hused xs.length
  obtain ⟨-, hcall, -, hpend, -, -, htone, -, -, -, -, -, hresp⟩ := detect_keeps s.begin true xs
  rw [exec_push, pushBlock_digits (s := s.begin) h, hblock,
    answerOk_digit _ (by simpa [digitState, hcall] using h) hresp, hcall, hpend, htone]
  rfl

end Sys2Proof.Proofs
end

section
/-! # The call state after an operation (`spec/46_facade_host.md` R345) -/

namespace Sys2Proof.Proofs

open Sys2Proof.Machine Sys2Proof.Laws

variable {s : State}

/-! ### What received bits make of the call state -/

/-- The call state after the V.8 engine was given bits: the one before, or `DATA` where it was `V8` (R340). -/
def negotiates (old new : CallState) : Prop := new = old ∨ old = .v8 ∧ new = .data

/-- A step that keeps the call state, before one that gives the engine bits. -/
theorem negotiates.after {a b d : CallState} (h : negotiates b d) (hab : b = a) : negotiates a d := hab ▸ h

theorem negotiates.trans {a b d : CallState} (h : negotiates a b) (h' : negotiates b d) : negotiates a d := by
  rcases h with rfl | ⟨rfl, rfl⟩
  · exact h'
  · rcases h' with rfl | ⟨hb, -⟩
    · exact .inr ⟨rfl, rfl⟩
    · cases hb

theorem negotiates_negotiatedHook (s : State) : negotiates s.callState (negotiatedHook s).callState := by
  by_cases h : s.callState = .v8
  · exact .inr ⟨h, by simp [negotiatedHook, h, requestTimer]⟩
  · rw [negotiatedHook_outside s h]
    exact .inl rfl

theorem negotiates_v8Set (p : Phase) (s : State) : negotiates s.callState (v8Set p s).callState := by
  unfold v8Set
  split
  · exact .inl rfl
  · dsimp only
    split
    · exact negotiates_negotiatedHook (State.emit { s with v8 := { s.v8 with phase := p } } _)
    · exact .inl rfl

theorem negotiates_v8SendJm (en : Bool) (s : State) : negotiates s.callState (v8SendJm en s).callState := by
  unfold v8SendJm
  refine (negotiates_v8Set .sentJm _).after ?_
  split <;> simp

theorem negotiates_v8Confirm (s : State) : negotiates s.callState (v8Confirm s).callState := by
  unfold v8Confirm
  split
  · exact negotiates_v8Set _ s
  · exact negotiates_v8SendJm _ s
  · exact negotiates_v8SendJm _ s
  all_goals exact .inl rfl

theorem negotiates_v8Marker (s : State) : negotiates s.callState (v8Marker s).callState := by
  unfold v8Marker
  split
  · dsimp only
    rw [(markerClear_keeps _).2.1]
    split
    · exact (negotiates_v8Confirm _).after (by simp)
    · exact .inl (by simp)
  · exact .inl (by simp)

theorem negotiates_v8FrameBit (b : Bool) (s : State) : negotiates s.callState (v8FrameBit b s).callState := by
  unfold v8FrameBit
  dsimp only
  split
  · exact .inl (by simp)
  · split
    · exact (negotiates_v8Set .negotiated _).after (by simp)
    · exact .inl (by simp)

theorem negotiates_v8PushRxBit (b : Bool) (s : State) : negotiates s.callState (v8PushRxBit b s).callState := by
  have htake : negotiates s.callState (v8TakeBit b s).callState := by
    unfold v8TakeBit
    dsimp only
    split
    · exact negotiates_v8Marker { s with v8 := s.v8.shiftIn b }
    · exact negotiates_v8FrameBit b { s with v8 := s.v8.shiftIn b }
  unfold v8PushRxBit
  split
  iterate 4 exact htake
  all_goals exact .inl rfl

theorem negotiates_demSample (x : Word) (s : State) :
    negotiates s.callState (demSample v8PushRxBit x s).callState := by
  unfold demSample
  split
  · exact .inl rfl
  · dsimp only
    split
    · exact (negotiates_v8PushRxBit _ _).after (by simp)
    · exact .inl (by simp)

/-- A phase change to a phase other than `NEGOTIATED` keeps the call state. -/
theorem v8Set_plain_callState {p : Phase} (hp : p ≠ .negotiated) (s : State) : (v8Set p s).callState = s.callState :=
  v8Set_plain_keeps s State.callState hp (fun _ _ _ => rfl)

theorem answerSeen_callState (s : State) : (answerSeen s).callState = s.callState := by
  rw [answerSeen, v8Set_plain_callState (by decide), fskSetDirections_callState, (fskSelect_keeps s _).2.1]

theorem negotiates_v8RxLoop (fuel : Nat) (xs : List Word) (s : State) :
    negotiates s.callState (v8RxLoop fuel xs s).callState := by
  induction fuel generalizing s xs with
  | zero => exact .inl rfl
  | succ fuel ih =>
    cases xs with
    | nil => exact .inl rfl
    | cons x xs =>
      have hdem : negotiates s.callState (v8RxLoop fuel xs (demSample v8PushRxBit x s)).callState :=
        (negotiates_demSample x s).trans (ih _ _)
      unfold v8RxLoop
      split
      · refine (ih _ _).after ?_
        split <;> simp [answerSeen_callState]
      iterate 4 exact hdem
      all_goals exact .inl rfl

/-! ### What digits make of the call state -/

theorem pushDetectLoop_callState (fuel : Nat) (xs : List Word) (s : State) (h : digitState s) :
    (pushDetectLoop fuel xs s).callState = s.callState ∨ (pushDetectLoop fuel xs s).callState = .dialing := by
  induction fuel generalizing s xs with
  | zero => exact .inl rfl
  | succ fuel ih =>
    cases xs with
    | nil => exact .inl rfl
    | cons x xs =>
      have hd : digitState (detect true (x :: xs) s).1 := by simpa [digitState] using h
      unfold pushDetectLoop
      dsimp only
      split
      · have hdial := digit_callState _ hd
        exact .inr ((ih _ _ (.inr hdial)).elim (·.trans hdial) id)
      · have hrest := ih ((x :: xs).drop (detect true (x :: xs) s).2.used) _ hd
        rwa [(detect_keeps s true (x :: xs)).2.1] at hrest

/-! ### Operations that keep the call state -/

/-- The outcome, if it is a next state, is one in the call state of `s`. -/
def callKept (s : State) (r : Result) : Prop := ∀ t, r = .next t → t.callState = s.callState

theorem callKept_ok {u : State} {r y : List Word} (h : u.callState = s.callState) : callKept s (answerOk u r y) := by
  rintro t ⟨⟩
  exact h

theorem callKept_fail (s : State) : callKept s (answerFail s) := by
  rintro t ⟨⟩
  rfl

theorem callKept_illegal (s : State) : callKept s (answerIllegal s) := by
  rintro t ⟨⟩
  rfl

theorem callKept_ite {p : Prop} [Decidable p] {r r' : Result} (h : callKept s r) (h' : callKept s r') :
    callKept s (if p then r else r') := by
  split
  · exact h
  · exact h'

theorem callKept_rdReg (index : BitVec 8) (id : BitVec 16) (s : State) : callKept s (execRdReg index id s) := by
  unfold execRdReg
  split
  · exact callKept_fail s
  · exact callKept_ok rfl

theorem callKept_rdMem (mem : BitVec 8) (addr : BitVec 16) (s : State) : callKept s (execRdMem mem addr s) := by
  unfold execRdMem
  split
  · exact callKept_fail s
  · exact callKept_ok rfl

theorem callKept_frmLoad (k : Fin 3) (b : Byte) (s : State) : callKept s (execFrmLoad k b s) := by
  unfold execFrmLoad
  rw [frmLoad_eq]
  split
  · exact callKept_fail s
  · rename_i u hu
    split at hu <;> cases hu
    exact callKept_ok rfl

theorem callKept_detCfg (ids : List Word) (s : State) : callKept s (execDetCfg ids s) := by
  unfold execDetCfg
  refine callKept_ite (callKept_fail s) ?_
  split
  · exact callKept_fail s
  · rename_i u hu
    obtain ⟨-, -, rfl⟩ := (detCfg_eq_some _ _ _).mp hu
    exact callKept_ok (by simp)

theorem callKept_txByte (b : Byte) (s : State) : callKept s (execTxByte b s) := by
  unfold execTxByte
  split
  · exact callKept_fail s
  · rename_i u hu
    obtain ⟨-, rfl⟩ := (txqPut_eq_some _ b _).mp hu
    exact callKept_ok rfl

theorem callKept_v8AddCap (item : Byte) (s : State) : callKept s (execV8AddCap item s) := by
  unfold execV8AddCap
  split
  · exact callKept_fail s
  · rename_i u hu
    obtain ⟨-, rfl⟩ := (txCapAdd_eq_some _ item _).mp hu
    exact callKept_ok rfl

theorem callKept_serialBit (b : Bool) (s : State) : callKept s (execSerialBit b s) := by
  unfold execSerialBit
  dsimp only
  split
  · refine callKept_ok ?_
    split <;> simp
  · exact callKept_ok (by simp)

theorem gzPowerClear_callState (u : Nat) (s : State) : (gzPowerClear u s).callState = s.callState := by
  unfold gzPowerClear
  split <;> rfl

theorem modSample_dataPopTxBit_callState (s : State) : (modSample dataPopTxBit s).1.callState = s.callState :=
  modSample_keeps s State.callState dataPopTxBit (by simp) (by simp)

theorem v8Start_callState (role : Role) (tone : Byte) (s : State) : (v8Start role tone s).callState = s.callState := by
  cases role with
  | send =>
    rw [v8Start_send, (toneStart_keeps _ _ _ _ _).2.1]
    rfl
  | listen => rw [v8Start_listen]; rfl

/-- The operations that a row of the call-state table names as its cause, and the other two that give the V.8 engine received
bits (`spec/46_facade_host.md` R345, `spec/10_state.md` R50). -/
def movesCall (i : Instr) : Bool :=
  match i with
  | .reset | .setRate _ | .setOnHook | .restart _ | .setOffHook _ | .push _ | .v8Rx _ | .v8PushRxBit _
  | .timerFire .postDial => true
  | _ => false

theorem exec_callKept {i : Instr} (hi : movesCall i = false) (s : State) : callKept s (exec i s) := by
  cases i with
  | reset | setRate | setOnHook | restart | setOffHook | push | v8Rx | v8PushRxBit => cases hi
  | nop | getRate | phaseInc | phaseInv | sine | correlate | isOnHook | v8GetTxcaps | v8GetRxcaps | toneStop | frmCfg
  | fskTxen => exact callKept_ok rfl
  | rdReg index id => exact callKept_rdReg index id s
  | rdMem mem addr => exact callKept_rdMem mem addr s
  | gzInit u n f => exact callKept_ite (callKept_fail s) (callKept_ok (by simp))
  | gzAcc u xs => rw [exec_gzAcc]; exact fun t ht => by cases ht; rfl
  | gzPower u => exact callKept_ok (gzPowerClear_callState u s.begin)
  | iqBuild k len f => exact callKept_ite (callKept_fail s) (callKept_ok (by simp))
  | frmLoad k b => exact callKept_frmLoad k b s
  | frmPush k b => rw [exec_frmPush]; exact fun t ht => by cases ht; rfl
  | frmPop | frmReset | detSingle | detDual | detReset | toneStartF | dataPopTxBit | dataPushRxBit | v8PopTxBit =>
    exact callKept_ok (by simp)
  | toneStart id so total gain => exact callKept_ite (callKept_ok (by simp)) (callKept_fail s)
  | toneTx count => exact callKept_ok (synth_keeps State.callState toneSample (by simp) _ s.begin)
  | detCfg ids => exact callKept_detCfg ids s
  | fskSelect id => exact callKept_ite (callKept_fail s) (callKept_ok (by simp))
  | fskTxch c => exact callKept_ite (callKept_fail s) (callKept_ok rfl)
  | fskRxch c => exact callKept_ite (callKept_fail s) (callKept_ok rfl)
  | fskTx count => exact callKept_ok (synth_keeps State.callState _ modSample_dataPopTxBit_callState _ s.begin)
  | fskRx xs => exact callKept_ok (demBlock_keeps s.begin State.callState dataPushRxBit xs (by simp) (by simp))
  | txByte b => exact callKept_txByte b s
  | v8Start role tone =>
    exact callKept_ite (callKept_illegal s) (callKept_ite (callKept_fail s)
      (callKept_ite (callKept_fail s) (callKept_ok (v8Start_callState role _ s.begin))))
  | v8Stop => exact callKept_ok (v8Set_plain_callState (by decide) s.begin)
  | v8AddCap item => exact callKept_v8AddCap item s
  | v8Tx count => exact callKept_ok (synth_keeps State.callState v8TxSample (by simp) _ s.begin)
  | pull count => exact callKept_ok (synth_keeps State.callState pullSample (by simp) _ s.begin)
  | serialBit b => exact callKept_serialBit b s
  | timerFire w =>
    cases w with
    | postDial => cases hi
    | preData => exact callKept_ite (callKept_fail s) (callKept_ok (by simp))

/-! ### The operations that move the call state -/

theorem callRow_of_eq (i : Instr) {old new : CallState} (h : new = old) : callRow i old new = true := by
  simp [callRow, h]

/-- The row `V8` to `DATA`, for an operation that gives the V.8 engine received bits. -/
theorem callRow_of_negotiates {i : Instr} {old new : CallState} (hi : callRow i .v8 .data = true) (h : negotiates old new) :
    callRow i old new = true := by
  rcases h with rfl | ⟨rfl, rfl⟩
  · exact callRow_of_eq i rfl
  · exact hi

/-- `PUSH` moves the call state by a digit off hook, or by the end of the negotiation in `V8` (R334). -/
theorem callRow_push (xs : List Word) (s : State) : callRow (.push xs) s.callState (pushBlock xs s).callState = true := by
  have hdigit : digitState s → callRow (.push xs) s.callState (pushDetectLoop (xs.length + 1) xs s).callState = true := by
    intro h
    rcases pushDetectLoop_callState (xs.length + 1) xs s h with hc | hc
    · exact callRow_of_eq _ hc
    · rcases h with h | h <;> rw [hc, h] <;> rfl
  unfold pushBlock
  split
  · exact callRow_of_eq _ rfl
  · rename_i h; exact hdigit (.inl h)
  · rename_i h; exact hdigit (.inr h)
  · exact callRow_of_negotiates rfl (negotiates_v8RxLoop _ xs s)
  · exact callRow_of_eq _ (demBlock_keeps s State.callState dataPushRxBit xs (by simp) (by simp))

/-- A refused operation keeps the call state. -/
theorem callRow_fail {i : Instr} {s t : State} (h : answerFail s = .next t) : callRow i s.callState t.callState = true :=
  callRow_of_eq i (callKept_fail s t h)

theorem callRow_onHook {i : Instr} (hi : i = .reset ∨ i = .setOnHook ∨ ∃ hz, i = .setRate hz) (old : CallState) :
    callRow i old .onHook = true := by
  rcases hi with rfl | rfl | ⟨hz, rfl⟩ <;> cases old <;> rfl

theorem callRow_setRate {hz : Word} {s t : State} (h : exec (.setRate hz) s = .next t) :
    callRow (.setRate hz) s.callState t.callState = true := by
  rw [exec_setRate] at h
  split at h <;> cases h
  · exact callRow_of_eq _ rfl
  · exact callRow_onHook (.inr (.inr ⟨hz, rfl⟩)) _

theorem callRow_restart {tone : Byte} {s t : State} (h : exec (.restart tone) s = .next t) :
    callRow (.restart tone) s.callState t.callState = true := by
  cases ht : toneValid tone.toNat with
  | false =>
    rw [exec_restart_fail ht] at h
    exact callRow_fail h
  | true =>
    rw [exec_restart ht] at h
    cases h
    rw [ok_callState, goOffHook_callState]
    cases s.callState <;> rfl

theorem callRow_setOffHook {tone : Byte} {s t : State} (h : exec (.setOffHook tone) s = .next t) :
    callRow (.setOffHook tone) s.callState t.callState = true := by
  by_cases hf : s.callState ≠ .onHook ∨ toneValid tone.toNat = false
  · rw [exec_setOffHook_fail hf] at h
    exact callRow_fail h
  · obtain ⟨hc, ht⟩ := not_or.mp hf
    rw [exec_setOffHook (not_not.mp hc) (by simpa using ht)] at h
    cases h
    rw [ok_callState, goOffHook_callState, not_not.mp hc]
    rfl

/-- The post-dial timer is pending while dialing only, so that its row is the one from `DIALING`. -/
theorem callRow_postDial {s t : State} (hs : timersRequested s) (h : exec (.timerFire .postDial) s = .next t) :
    callRow (.timerFire .postDial) s.callState t.callState = true := by
  by_cases hf : failCause (.timerFire .postDial) s = true
  · rw [exec_timerFire_fail hf] at h
    exact callRow_fail h
  · obtain ⟨hp, hu⟩ : s.timerPending .postDial = true ∧ schemeUsable s.srate 1 = true := by
      simpa [failCause, v8Scheme_eq] using hf
    rw [exec_timerFire_postDial hp hu] at h
    cases h
    rw [ok_callState, postDial, v8Start_callState, hs .postDial hp]
    rfl

/-! ### Every operation -/

/-- An operation keeps the call state, or moves it by a row that names the operation (R345). -/
theorem callRow_exec {i : Instr} {s t : State} (hs : timersRequested s) (h : exec i s = .next t) :
    callRow i s.callState t.callState = true := by
  by_cases hi : movesCall i = false
  · exact callRow_of_eq i (exec_callKept hi s t h)
  cases i with
  | reset =>
    cases h
    exact callRow_onHook (.inl rfl) _
  | setOnHook =>
    cases h
    exact callRow_onHook (.inr (.inl rfl)) _
  | setRate hz => exact callRow_setRate h
  | restart tone => exact callRow_restart h
  | setOffHook tone => exact callRow_setOffHook h
  | push xs =>
    cases h
    exact callRow_push xs s.begin
  | v8Rx xs =>
    cases h
    exact callRow_of_negotiates rfl (negotiates_v8RxLoop _ xs s.begin)
  | v8PushRxBit b =>
    cases h
    exact callRow_of_negotiates rfl (negotiates_v8PushRxBit b s.begin)
  | timerFire w =>
    cases w with
    | postDial => exact callRow_postDial hs h
    | preData => exact absurd rfl hi
  | _ => exact absurd rfl hi

end Sys2Proof.Proofs
end

section
/-! # The obligations on the façade -/

namespace Sys2Proof.Proofs

open Sys2Proof.Machine Sys2Proof.Laws

/-- Settles O10: an operation keeps the call state, or is one of those that a row names; the post-dial timer is pending in
`DIALING` only. -/
theorem callTransitions : Obligations.CallTransitions := by
  unfold Obligations.CallTransitions
  exact fun i s t hs h => callRow_exec ((timerInv_iff s).mpr hs) h

/-- Settles O15: a call state that is left for another has no timer pending, or its timer is the one that is answered. -/
theorem timerInvariant : Obligations.TimerInvariant := by
  unfold Obligations.TimerInvariant
  exact fun _ _ => kept_timerInv.step

/-- Settles O53: in each call state `PULL` has the source of one engine. -/
theorem pullDispatch : Obligations.PullDispatch := by
  unfold Obligations.PullDispatch
  intro count s
  refine ⟨exec_pull_silent count, fun h => ?offHook, fun h => ?v8, fun h => ?data⟩
  case offHook => exact exec_pull_relays (fun _ hu => pullSample_offHook (hu.trans h)) (exec_toneTx count s)
  case v8 => exact exec_pull_relays (fun _ hu => pullSample_v8 (hu.trans h)) (exec_v8Tx count s)
  case data => exact exec_pull_relays (fun _ hu => pullSample_data (hu.trans h)) rfl

/-- Settles O54: in each call state `PUSH` has the sink of one engine; the classifier takes the block in one turn. -/
theorem pushDispatch : Obligations.PushDispatch := by
  unfold Obligations.PushDispatch
  intro xs s
  refine ⟨fun h => ?onHook, fun h => ⟨_, exec_v8Rx xs s, ?v8⟩, fun h => ⟨_, rfl, ?data⟩, exec_push_digits⟩
  case onHook => rw [exec_push, pushBlock_onHook (s := s.begin) h]; rfl
  case v8 => rw [exec_push, pushBlock_v8 (s := s.begin) h]; rfl
  case data => rw [exec_push, pushBlock_data (s := s.begin) h]; rfl

/-- Settles O55: each part of the hook operations is the shared operation that `TONE_START` and `DET_CFG` run. -/
theorem hookOps : Obligations.HookOps := by
  unfold Obligations.HookOps
  intro s
  refine ⟨reads_of_encode rfl rfl, reads_of_encode rfl rfl, exec_isOnHook s, ?onHook, fun t => exec_setOffHook_fail,
    fun t hc ht hsamples => ?offHook, fun t => exec_restart_fail, fun t ht => ?restart⟩
  case onHook =>
    rw [exec_setOnHook, goOnHook_eq]
    rfl
  case offHook =>
    have hstart : exec (.toneStart t 0xFFFF#16 0#32 16384#32) s =
        answerOk (toneLoad t 0#32 16384#32 0xFFFF#16 s.begin) [] [] := by
      rw [exec_toneStart (by simp [failCause, ht]), toneStart_loaded (by exact hsamples)]
    have hstatus : (State.ok (configured dtmfIds s.begin) [] []).resp.status = some .ok := by rw [ok_resp]
    exact ⟨_, _, hstart, toneLoadRegs_active .., exec_detCfg_dtmf s, hstatus, exec_setOffHook_loaded hc ht hsamples rfl rfl⟩
  case restart => exact ⟨_, _, exec_setOnHook s, exec_setOffHook rfl ht, rfl, exec_restart ht⟩

/-- Settles O57: a timer fails where its bit is not set, the post-dial timer also where V21 is not usable. -/
theorem timerFire : Obligations.TimerFire := by
  unfold Obligations.TimerFire
  intro s
  rw [← timerPending_postDial, ← timerPending_preData]
  refine ⟨fun h => exec_timerFire_fail ?postDialCause, fun h => exec_timerFire_fail ?preDataCause, fun hp hu => ?postDial,
    fun hp hs => ?preData⟩
  case postDialCause => simpa [failCause, v8Scheme_eq] using h
  case preDataCause => simp [failCause, h]
  case postDial =>
    have hok : failCause (.v8Start .send 0x15#16) s = false := by
      have hvalid : toneValid 0x15 = true := by decide
      simp [failCause, v8Scheme_eq, hu, hvalid]
    refine ⟨_, (exec_v8Start_send hok (.inr (answerTone_samples hu))).2, ?_⟩
    rw [exec_timerFire_postDial hp hu, postDial_eq (s := s.begin.clearTimer .postDial) hu]
    rfl
  case preData =>
    have hlen : (Config.bootstrap.take (64 - s.txq.count.toNat)).length =
      min (64 - s.txq.count.toNat) Config.bootstrap.length := List.length_take
    have hroom : s.txq.count.toNat + (Config.bootstrap.take (64 - s.txq.count.toNat)).length ≤ 64 := by omega
    have hcount := queuedAll_count hroom
    refine ⟨_, _, exec_timerFire_preData hp hs, ?count, fun j hj => ?held, fun j hj => ?new, fun a ha => ?other⟩
    case count => rw [hcount]; omega
    case held => exact ramRead_queuedAll_other hroom (fun i hi => by omega)
    case new =>
      rw [hcount] at hj
      rw [ramRead_queuedAll_new hroom (by omega), List.getElem_take, List.getD_eq_getElem]
    case other => exact ramRead_queuedAll_other hroom (fun j hj => ha j (by rw [hcount]; omega))

end Sys2Proof.Proofs
end

section
/-! # The legal command words and the rows of the operation map (`spec/30_encoding.md` R97, R101, `spec/60_exceptions.md` R357) -/

namespace Sys2Proof.Proofs

open Sys2Proof.Machine Sys2Proof.Laws

/-! ### One row of the map -/

/-- The row lets the fields of the command word carry what they carry; for `V8_START` with role `LISTEN` that is no tone. -/
def admitsFields (r : FieldRow) (cw : Word) : Bool :=
  (r.sel.admits (cwSel cw).toNat && r.imm.admits (cwImm cw).toNat) &&
    (decide (r.op ≠ 0x50) || decide ((cwSel cw).toNat ≠ 1) || decide ((cwImm cw).toNat = 0))

/-- The operation codes of the map are all different. -/
theorem fieldRows_ops_nodup : (fieldRows.map FieldRow.op).Nodup := by decide

/-- The fields of a command word are judged by the row of its operation code alone. -/
theorem cwFieldsOk_of_row {r : FieldRow} {cw : Word} (hr : r ∈ fieldRows) (hop : (cwOp cw).toNat = r.op) :
    cwFieldsOk cw = admitsFields r cw := by
  have hrows : fieldRows.all (fun q => q.op != (cwOp cw).toNat ||
      (q.sel.admits (cwSel cw).toNat && q.imm.admits (cwImm cw).toNat)) =
      (r.sel.admits (cwSel cw).toNat && r.imm.admits (cwImm cw).toNat) := by
    rw [Bool.eq_iff_iff, List.all_eq_true]
    constructor
    · intro h
      simpa [hop] using h r hr
    · intro h q hq
      by_cases hqr : q.op = r.op
      · rw [List.inj_on_of_nodup_map fieldRows_ops_nodup hq hr hqr, h, Bool.or_true]
      · rw [hop, bne_iff_ne.mpr hqr, Bool.true_or]
  rw [cwFieldsOk, hrows, hop, admitsFields]

/-! ### The decoder row by row -/

/-- The check of `V8_START`: a `SEND` with any tone, or a `LISTEN` without one. -/
theorem v8StartFields_eq (sel : BitVec 8) (imm : BitVec 16) :
    (decide (sel.toNat = 0) || decide (sel.toNat = 1) && decide (imm.toNat = 0)) =
      (decide (sel.toNat < 2) && (decide (sel.toNat ≠ 1) || decide (imm.toNat = 0))) := by
  rw [Bool.eq_iff_iff]
  simp only [Bool.or_eq_true, Bool.and_eq_true, decide_eq_true_eq]
  omega

/-- Each row of the map is an arm of the decoder, and the arm checks what the row admits. -/
theorem decode_of_row (f : Frame) :
    ∀ r ∈ fieldRows, (cwOp f.cw).toNat = r.op → ∃ i, decode f = f.legal (admitsFields r f.cw) i := by
  simp only [fieldRows, List.forall_mem_append, List.forall_mem_cons, List.not_mem_nil, false_implies, implies_true, and_true]
  and_intros
  all_goals
    intro hop
    rw [decode, hop]
    refine ⟨_, congrArg (f.legal · _) ?_⟩
    simp [admitsFields, FieldRule.admits, BitVec.toNat_eq, v8StartFields_eq, -ne_eq, -decide_not]

/-- An allocated command word that passes its fields is left to the count of words (R97). -/
theorem decode_of_allocated {f : Frame} (h : cwAllocated f.cw = true) : ∃ i, decode f = f.legal (cwFieldsOk f.cw) i := by
  obtain ⟨r, hr, hop⟩ := List.any_eq_true.mp h
  have hrow := (beq_iff_eq.mp hop).symm
  rw [cwFieldsOk_of_row hr hrow]
  exact decode_of_row f r hr hrow

/-- An operation code without a row falls through every arm of the decoder. -/
theorem decode_of_not_allocated {f : Frame} (h : cwAllocated f.cw = false) : decode f = .error .unallocatedOp := by
  unfold decode
  dsimp only
  split
  case h_54 => rfl
  all_goals
    rename_i hop
    exact absurd h (by rw [cwAllocated, hop]; decide)

/-! ### What a command word is rejected for -/

theorem legal_eq_illegalField_iff {f : Frame} {ok : Bool} {i : Instr} :
    f.legal ok i = .error .illegalField ↔ ok = false := by
  cases ok with
  | false => exact iff_of_true rfl rfl
  | true =>
    simp only [Frame.legal, if_true]
    split <;> simp

theorem legal_ne_unallocatedOp {f : Frame} {ok : Bool} {i : Instr} : f.legal ok i ≠ .error .unallocatedOp := by
  cases ok with
  | false => simp [Frame.legal]
  | true =>
    simp only [Frame.legal, if_true]
    split <;> simp

theorem decode_eq_unallocatedOp_iff {f : Frame} : decode f = .error .unallocatedOp ↔ cwAllocated f.cw = false := by
  refine ⟨fun hd => ?_, decode_of_not_allocated⟩
  by_contra h
  obtain ⟨i, hi⟩ := decode_of_allocated (Bool.not_eq_false _ ▸ h)
  exact legal_ne_unallocatedOp (hi ▸ hd)

theorem decode_eq_illegalField_iff {f : Frame} :
    decode f = .error .illegalField ↔ cwAllocated f.cw = true ∧ cwFieldsOk f.cw = false := by
  cases h : cwAllocated f.cw with
  | false => simp [decode_of_not_allocated h]
  | true =>
    obtain ⟨i, hi⟩ := decode_of_allocated h
    rw [hi, legal_eq_illegalField_iff]
    exact (and_iff_right rfl).symm

/-- A rejected command word is answered `ILLEGAL` from the state as it is, for its code and for a field alike (R357, R361). -/
theorem step_rejected {s : State} {f : Frame} {rest : List Frame} (h : s.pending = f :: rest)
    (hd : decode f = .error .unallocatedOp ∨ decode f = .error .illegalField) :
    step s = .next (State.answered { s with pending := rest } .illegal [] [] []) := by
  rcases hd with hd | hd
  · exact step_error h hd
  · exact step_error h hd

/-- The two questions of R357, in the order in which the decoder asks them. -/
theorem decode_rejects_iff {f : Frame} :
    decode f = .error .unallocatedOp ∨ decode f = .error .illegalField ↔
      cwAllocated f.cw = false ∨ cwFieldsOk f.cw = false := by
  rw [decode_eq_unallocatedOp_iff, decode_eq_illegalField_iff, ← Bool.not_eq_false]
  tauto

end Sys2Proof.Proofs
end

section
/-! # Which operations are refused, and that a refusal leaves no trace (`spec/60_exceptions.md` R358, R361) -/

namespace Sys2Proof.Proofs

open Sys2Proof.Machine Sys2Proof.Laws

variable {s : State}

/-! ### Inside the tables of the inspection window -/

theorem exists_of_inRanges {ranges : List (Nat × Nat)} {id k : Nat} (h : inRanges ranges id k = true) :
    ∃ bound, (id, bound) ∈ ranges ∧ k < bound := by
  obtain ⟨⟨id', bound⟩, hmem, hrange⟩ := List.any_eq_true.mp h
  rw [Bool.and_eq_true, beq_iff_eq, decide_eq_true_eq] at hrange
  obtain ⟨rfl, hk⟩ := hrange
  exact ⟨bound, hmem, hk⟩

/-- The ids of the register table are all different. -/
theorem regTable_ids_nodup : (regTable.map RegRow.id).Nodup := by decide

/-- A register inside the ranges reads: its id finds its own row. -/
theorem readReg_inside {id index : Nat} (h : inRanges regRanges id index = true) : ∃ v, readReg id index s = some v := by
  obtain ⟨bound, hrow, hindex⟩ := exists_of_inRanges h
  rw [← regTable_ranges] at hrow
  obtain ⟨r, hr, hpair⟩ := List.mem_map.mp hrow
  obtain ⟨rfl, rfl⟩ := Prod.mk.inj hpair
  cases hfind : regTable.find? (fun q => q.id == r.id) with
  | none => exact absurd BEq.rfl (List.find?_eq_none.mp hfind r hr)
  | some q =>
    have hid : q.id = r.id := by simpa using List.find?_some hfind
    obtain rfl := List.inj_on_of_nodup_map regTable_ids_nodup (List.mem_of_find?_eq_some hfind) hr hid
    exact ⟨q.value s index, by rw [readReg, hfind]; exact if_pos hindex⟩

/-- The ranges of R358 are the sizes of R61. -/
theorem memRanges_size : ∀ p ∈ memRanges, p.2 = memSize p.1 := by decide

/-- An address inside the ranges reads. -/
theorem readMem_inside {mem a : Nat} (h : inRanges memRanges mem a = true) : readMem mem a s = some (memWord mem a s) := by
  obtain ⟨size, hrow, ha⟩ := exists_of_inRanges h
  exact if_pos (memRanges_size _ hrow ▸ ha)

/-! ### The checks of the operations are the causes of the table -/

theorem failCause_toneStart (id : Byte) (so : BitVec 16) (total gain : Word) :
    failCause (.toneStart id so total gain) s = !(toneValid id.toNat && successorOk so) := by
  rw [Bool.not_and]
  rfl

theorem failCause_v8AddCap (item : Byte) : failCause (.v8AddCap item) s = !capAccepts (txItems s) item := by
  have hlen : (txItems s).length = s.v8.ntx.toNat := ramTake_length _ _
  have hcap : decide ((txItems s).length ≠ Config.capsetCap) = !decide (s.v8.ntx.toNat = 16) := by
    rw [hlen, ← decide_not]
    rfl
  rw [capAccepts, hcap, Bool.not_and, Bool.not_and, Bool.not_not, Bool.not_not]
  rfl

theorem failCause_setOffHook (t : Byte) :
    failCause (.setOffHook t) s = true ↔ s.callState ≠ .onHook ∨ toneValid t.toNat = false := by
  rw [failCause, Bool.or_eq_true, decide_eq_true_eq, Bool.not_eq_true']

/-! ### A cause refuses -/

theorem exec_toneStart_fail {id : Byte} {so : BitVec 16} {total gain : Word}
    (h : failCause (.toneStart id so total gain) s = true) : exec (.toneStart id so total gain) s = answerFail s := by
  rw [failCause_toneStart, Bool.not_eq_true'] at h
  change execToneStart id so total gain s = _
  rw [execToneStart, if_neg (by simp [h])]

/-- What `DET_CFG` accepts is what `detCfg_accepts` says of a call without a cause. -/
theorem failCause_detCfg_of_accepts {ids : List Word} (hpos : ids.length ≠ 0) (hlen : ids.length ≤ 16)
    (hids : ids.all detIdOk = true) (ha : (subsetA (ids.map BitVec.toNat)).length ≤ 8)
    (hb : (subsetB (ids.map BitVec.toNat)).length ≤ 8) : failCause (.detCfg ids) s = false := by
  simp only [failCause, Bool.or_eq_false_iff, decide_eq_false_iff_not, Nat.not_lt, List.any_eq_false]
  refine ⟨⟨⟨⟨hpos, hlen⟩, fun a hmem => ?_⟩, ha⟩, hb⟩
  simpa [detIdOk] using List.all_eq_true.mp hids a hmem

/-- `DET_CFG` refuses by the number of its words and by each word, then by the two subsets (R208, R200). -/
theorem exec_detCfg_fail {ids : List Word} (h : failCause (.detCfg ids) s = true) :
    exec (.detCfg ids) s = answerFail s := by
  change execDetCfg ids s = _
  unfold execDetCfg
  split
  next => rfl
  next hchecks =>
    rw [not_or, not_or, Nat.not_lt, Bool.not_eq_false] at hchecks
    obtain ⟨hpos, hlen, hids⟩ := hchecks
    cases hcfg : detCfg (ids.map BitVec.toNat) s.begin with
    | none => rfl
    | some t =>
      obtain ⟨ha, hb, -⟩ := (detCfg_eq_some _ _ _).mp hcfg
      rw [failCause_detCfg_of_accepts hpos hlen hids ha hb] at h
      cases h

theorem failCause_v8Start_send (tone : BitVec 16) :
    failCause (.v8Start .send tone) s =
      (!(decide (tone.toNat ≤ 0xFF) && toneValid tone.toNat) || !schemeUsable s.srate Config.v8Scheme.toNat) := by
  rw [Bool.not_and, ← decide_not, failCause]
  simp only [Nat.not_le]

/-- `V8_START` asks for the tone of a `SEND`, then for V21 (R265); a `LISTEN` has no tone where it has an encoding. -/
theorem exec_v8Start_eq {role : Role} {tone : BitVec 16} (hw : (Instr.v8Start role tone).wellFormed = true) :
    exec (.v8Start role tone) s =
      if failCause (.v8Start role tone) s = true then answerFail s
      else answerOk (v8Start role (tone.setWidth 8) s.begin) [] [] := by
  change execV8Start role tone s = _
  cases role with
  | send =>
    rw [execV8Start, if_neg (by simp), failCause_v8Start_send]
    cases decide (tone.toNat ≤ 0xFF) && toneValid tone.toNat <;>
    cases schemeUsable s.srate Config.v8Scheme.toNat <;> simp
  | listen =>
    have htone : tone = 0#16 := of_decide_eq_true hw
    simp [execV8Start, failCause, htone]

/-- Where the table has a cause, the operation answers `FAIL` and nothing else (R358, R361). -/
theorem exec_fails {i : Instr} (hw : i.wellFormed = true) (h : failCause i s = true) : exec i s = answerFail s := by
  cases i with
  | setRate hz => exact if_pos (of_decide_eq_true h)
  | rdReg index id => exact exec_rdReg_fail s (by simpa [failCause] using h)
  | rdMem mem a => exact exec_rdMem_fail s (by simpa [failCause] using h)
  | gzInit u n f => exact if_pos (of_decide_eq_true h)
  | iqBuild t len f => exact exec_iqBuild_fail t (by simpa [failCause] using h) f s
  | frmLoad k b => exact exec_frmLoad_busy (by simpa [failCause, codecAt_fin] using h) b
  | toneStart id so total gain => exact exec_toneStart_fail h
  | detCfg ids => exact exec_detCfg_fail h
  | fskSelect id => exact if_pos (by simpa [failCause] using h)
  | fskTxch c => exact if_pos (of_decide_eq_true h)
  | fskRxch c => exact if_pos (of_decide_eq_true h)
  | txByte b => exact exec_txByte_full (of_decide_eq_true h)
  | v8Start role tone => exact (exec_v8Start_eq hw).trans (if_pos h)
  | v8AddCap item => exact exec_v8AddCap_refused (by simpa [failCause_v8AddCap] using h)
  | restart t => exact exec_restart_fail (by simpa [failCause] using h)
  | setOffHook t => exact exec_setOffHook_fail ((failCause_setOffHook t).mp h)
  | timerFire w => exact exec_timerFire_fail h
  | _ => cases h

/-! ### Without a cause the operation answers `OK` -/

/-- The outcome is a next state whose status word is `OK`. -/
def succeeds (r : Result) : Prop := ∃ t, r = .next t ∧ t.resp.status = some .ok

theorem succeeds_ok (s : State) (results samples : List Word) : succeeds (answerOk s results samples) := ⟨_, rfl, rfl⟩

theorem succeeds_ite {c : Prop} [Decidable c] {r r' : Result} (hc : ¬ c) (h : succeeds r') :
    succeeds (if c then r else r') := by rwa [if_neg hc]

/-- Where the table has no cause, every check of the operation passes (R358). -/
theorem exec_succeeds {i : Instr} (hw : i.wellFormed = true) (h : failCause i s = false) : succeeds (exec i s) := by
  cases i with
  | setRate hz => exact succeeds_ite (of_decide_eq_false h) (succeeds_ok ..)
  | rdReg index id =>
    obtain ⟨v, hv⟩ := readReg_inside (s := s) (by simpa [failCause] using h)
    exact ⟨_, exec_rdReg hv, rfl⟩
  | rdMem mem a =>
    change succeeds (execRdMem mem a s)
    rw [execRdMem, readMem_inside (by simpa [failCause] using h)]
    exact succeeds_ok ..
  | gzInit u n f => exact succeeds_ite (of_decide_eq_false h) (succeeds_ok ..)
  | iqBuild t len f => exact succeeds_ite (by simpa [failCause] using h) (succeeds_ok ..)
  | frmLoad k b => exact ⟨_, exec_frmLoad (by simpa [failCause, codecAt_fin] using h) b, rfl⟩
  | frmPush k b => exact ⟨_, exec_frmPush k b s, rfl⟩
  | toneStart id so total gain =>
    rw [exec_toneStart h]
    exact succeeds_ok ..
  | detCfg ids =>
    rw [exec_detCfg h]
    exact succeeds_ok ..
  | fskSelect id => exact succeeds_ite (by simpa [failCause] using h) (succeeds_ok ..)
  | fskTxch c => exact succeeds_ite (of_decide_eq_false h) (succeeds_ok ..)
  | fskRxch c => exact succeeds_ite (of_decide_eq_false h) (succeeds_ok ..)
  | txByte b => exact ⟨_, exec_txByte_put (of_decide_eq_false h), rfl⟩
  | v8Start role tone =>
    rw [exec_v8Start_eq hw, if_neg (by simp [h])]
    exact succeeds_ok ..
  | v8AddCap item => exact ⟨_, exec_v8AddCap_accepted (by simpa [failCause_v8AddCap] using h), rfl⟩
  | restart t =>
    rw [exec_restart (by simpa [failCause] using h)]
    exact succeeds_ok ..
  | setOffHook t =>
    rw [← Bool.not_eq_true, failCause_setOffHook] at h
    exact succeeds_ite h (succeeds_ok ..)
  | serialBit b =>
    by_cases hbyte : (s.codecAt dteCodec).pst = .stop ∧ b = true
    · obtain ⟨hstop, rfl⟩ := hbyte
      rw [exec_serialBit_byte hstop]
      exact succeeds_ok ..
    · exact ⟨_, exec_serialBit_inside hbyte, rfl⟩
  | timerFire w =>
    simp only [failCause, Bool.or_eq_false_iff, Bool.not_eq_false'] at h
    obtain ⟨hpending, husable⟩ := h
    refine succeeds_ite (by simp [hpending]) ?_
    cases w with
    | postDial => exact succeeds_ite (by simpa using husable) (succeeds_ok ..)
    | preData => exact succeeds_ok ..
  | _ => exact succeeds_ok ..

/-! ### What an operation does not look at -/

/-- No register is a port: a row reads the same after the response is emptied. -/
theorem regTable_value_begin : ∀ r ∈ regTable, ∀ index, r.value s.begin index = r.value s index := by
  simp only [regTable, regRowsA, regRowsB, regRowsC, List.forall_mem_append, List.forall_mem_cons, List.not_mem_nil,
    false_implies, implies_true, and_true]
  and_intros
  all_goals exact fun _ => rfl

theorem readReg_begin (id index : Nat) : readReg id index s.begin = readReg id index s := by
  unfold readReg
  cases hfind : regTable.find? (fun r => r.id == id) with
  | none => rfl
  | some r => simp only [regTable_value_begin r (List.mem_of_find?_eq_some hfind) index]

/-- Every operation begins with an empty response, so it is the same from a state whose response is emptied already. -/
theorem exec_begin (i : Instr) (s : State) : exec i s.begin = exec i s := by
  cases i with
  | rdReg index id =>
    change execRdReg index id s.begin = execRdReg index id s
    unfold execRdReg
    rw [readReg_begin]
    rfl
  | _ => rfl

/-- An operation that does not answer `OK` has made no move: it changes the response alone (R361). -/
theorem exec_refused {i : Instr} {t : State} {st : Status} (h : exec i s = .next t) (hst : t.resp.status = some st)
    (hne : st ≠ .ok) : t = s.answered st [] [] [] := by
  cases exec_ran i s t h with
  | failed => cases hst; rfl
  | illegal => cases hst; rfl
  | done results samples entry moves => cases hst; exact absurd rfl hne

end Sys2Proof.Proofs
end

section
/-! # The obligations on refusals (`spec/60_exceptions.md` R357, R358, R361) -/

namespace Sys2Proof.Proofs

open Sys2Proof.Machine Sys2Proof.Laws

/-- Settles O3: the code is looked for among the rows, then its row judges the fields. -/
theorem illegalExactly : Obligations.IllegalExactly := by
  unfold Obligations.IllegalExactly
  exact ⟨fun f => decode_eq_unallocatedOp_iff, fun f => decode_eq_illegalField_iff,
    fun s f rest h hcw => step_rejected h (decode_rejects_iff.mpr hcw)⟩

/-- Settles O6: a cause of the table refuses, and without one every check of the operation passes. -/
theorem failExactly : Obligations.FailExactly := by
  unfold Obligations.FailExactly
  intro i s hw
  cases h : failCause i s with
  | true => exact ⟨_, exec_fails hw h, rfl⟩
  | false => exact exec_succeeds hw h

/-- Settles O7: an operation runs from the emptied response, and one that is refused has made no move. -/
theorem refusedChangesNothing : Obligations.RefusedChangesNothing := by
  unfold Obligations.RefusedChangesNothing
  refine ⟨fun i s r => ?response, fun i s t st => exec_refused, fun s f rest => step_rejected⟩
  case response =>
    have hbegin : State.begin { s with resp := r } = s.begin := rfl
    rw [← exec_begin, hbegin, exec_begin]

end Sys2Proof.Proofs
end

section
/-! # A response that goes on (`spec/70_reset_and_hazards.md` R409)

The procedures of the block do nothing with the response of the operation in progress but append events to it. So what they do
after a response `r` is what they do after an empty one, with `r` put before the events. -/

namespace Sys2Proof.Proofs

open Sys2Proof.Machine Sys2Proof.Laws

/-- The state with its response continuing the response `r`: the events of `r` come first. -/
def resumed (r : Response) (s : State) : State := { s with resp := { r with events := r.events ++ s.resp.events } }

/-- A procedure's state and answer, with the response continuing `r`. -/
def resumedWith {α : Type} (r : Response) (p : State × α) : State × α := (resumed r p.1, p.2)

/-- The procedure does the same after every response. -/
def Resumes (f : State → State) : Prop := ∀ r s, f (resumed r s) = resumed r (f s)

/-- The procedure does and answers the same after every response. -/
def ResumesWith {α : Type} (f : State → State × α) : Prop := ∀ r s, f (resumed r s) = resumedWith r (f s)

/-! ### Putting procedures together -/

/-- A state goes on from its own response, emptied. -/
theorem resumed_begin (s : State) : resumed s.resp s.begin = s := by
  simp [resumed, State.begin, Response.empty]

/-- The two branches of a test that does not look at the response. -/
theorem ite_map {α β : Type} {f : α → β} {c : Prop} [Decidable c] {a b : β} {a' b' : α} (ha : c → a = f a')
    (hb : ¬ c → b = f b') : (if c then a else b) = f (if c then a' else b') := by
  split
  case isTrue h => exact ha h
  case isFalse h => exact hb h

theorem Resumes.comp {f g : State → State} (hf : Resumes f) (hg : Resumes g) : Resumes (fun s => f (g s)) :=
  fun r s => (congrArg f (hg r s)).trans (hf r (g s))

theorem Resumes.foldl {α : Type} {f : State → α → State} (hf : ∀ a, Resumes (f · a)) (l : List α) :
    Resumes (fun s => l.foldl f s) := by
  intro r s
  induction l generalizing s with
  | nil => rfl
  | cons a l ih => exact (congrArg (l.foldl f) (hf a r s)).trans (ih _)

theorem ResumesWith.synth {f : State → State × Word} (hf : ResumesWith f) (n : Nat) : ResumesWith (synth f n) := by
  intro r s
  induction n generalizing s with
  | zero => rfl
  | succ n ih => simp only [Machine.synth, hf r s, resumedWith, ih]

theorem resumes_emit (e : Event) : Resumes (State.emit · e) := by
  intro r s
  simp [resumed, State.emit]

/-! ### Frame codecs and the data path -/

theorem resumes_frmPush (k : Nat) (b : Bool) : ResumesWith (frmPush k b) := fun _ _ => rfl

theorem resumes_dataPopTxBit : ResumesWith dataPopTxBit := by
  intro r s
  unfold dataPopTxBit
  refine ite_map (f := resumedWith r) (fun h => ?_) (fun _ => rfl)
  simp only [frmLoad_eq]
  rw [if_pos (show ((txqTake s).1.codecAt lineCodec).bn = 0#4 from h.1),
    if_pos (show ((txqTake (resumed r s)).1.codecAt lineCodec).bn = 0#4 from h.1)]
  rfl

theorem resumes_dataPushRxBit (b : Bool) : Resumes (dataPushRxBit b) := by
  intro r s
  unfold dataPushRxBit
  rw [resumes_frmPush lineCodec b r s]
  dsimp only [resumedWith]
  split
  · exact resumes_emit _ r _
  · rfl

/-! ### FSK engine -/

theorem resumes_fskClear : Resumes fskClear := by
  have hregs : Resumes (fun s =>
      { s with fsk := { FskRegs.reset with txen := s.fsk.txen }, chan := Vector.replicate _ FskChannel.reset }) := fun _ _ => rfl
  have htables : Resumes (fun s => (List.range Config.iqTables).foldl clearIqLen s) := .foldl (fun _ _ _ => rfl) _
  have hqueue : Resumes (fun s => txqClear (frmReset lineCodec s)) := fun _ _ => rfl
  exact hqueue.comp (htables.comp hregs)

theorem resumes_setChan (c : Nat) (x : FskChannel) : Resumes (State.setChan · c x) := fun _ _ => rfl

theorem resumes_buildIq (t f len : Nat) : Resumes (buildIq t f len) := fun _ _ => rfl

theorem resumes_fskSetChannel (d : SchemeDesc) (c : Nat) : Resumes (fskSetChannel d · c) := fun r s =>
  ((resumes_buildIq _ _ (symlen s.srate (d.chan c).baud)).comp
    ((resumes_buildIq _ _ (symlen s.srate (d.chan c).baud)).comp (resumes_setChan c _))) r s

theorem resumes_fskSelect (id : Byte) : Resumes (fskSelect id) := by
  have hregs : ∀ d : SchemeDesc, Resumes (fun s =>
      { s with fsk := { s.fsk with scheme := id, nch := BitVec.ofNat 2 d.nch, txch := d.defTx, rxch := d.defRx } }) :=
    fun _ _ _ => rfl
  have hchannels : ∀ d : SchemeDesc, Resumes (fun s => (List.range d.nch).foldl (fskSetChannel d) s) :=
    fun d => .foldl (resumes_fskSetChannel d) _
  intro r s
  unfold fskSelect
  exact ite_map (f := resumed r) (fun _ => resumes_fskClear r s) fun _ =>
    ((hregs _).comp ((hchannels _).comp resumes_fskClear)) r s

theorem resumes_modSample {src : State → State × Bool} (hsrc : ResumesWith src) : ResumesWith (modSample src) := by
  intro r s
  unfold modSample
  refine ite_map (f := resumedWith r) (fun _ => rfl) (fun _ => ?_)
  have hchan : ∀ c x, (resumed r s).setChan c x = resumed r (s.setChan c x) := fun _ _ => rfl
  have hat : ∀ c, (resumed r s).chanAt c = s.chanAt c := fun _ => rfl
  have hfsk : (resumed r s).fsk = s.fsk := rfl
  dsimp only
  rw [hfsk, hat, hchan, hsrc]
  split <;> rfl

theorem resumes_demSample {sink : Bool → State → State} (hsink : ∀ b, Resumes (sink b)) (x : Word) :
    Resumes (demSample sink x) := by
  intro r s
  unfold demSample
  refine ite_map (f := resumed r) (fun _ => rfl) fun _ => ite_map (f := resumed r) (fun _ => ?_) fun _ => rfl
  exact hsink (estimateBit (s.setChan s.fsk.rxch.toNat ((s.chanAt s.fsk.rxch.toNat).store x)) s.fsk.rxch.toNat) r
    ((s.setChan s.fsk.rxch.toNat ((s.chanAt s.fsk.rxch.toNat).store x)).setChan _ _)

/-! ### Phases of the V.8 engine -/

theorem resumes_requestTimer (w : Timer) : Resumes (requestTimer w) := fun r s =>
  resumes_emit _ r { s with timerPend := s.timerPend ||| timerBit w }

theorem resumes_dataDirections : Resumes dataDirections := fun _ _ =>
  ite_map (fun _ => rfl) fun _ => rfl

theorem resumes_negotiatedHook : Resumes negotiatedHook := by
  have hselect : Resumes (fun s => selectDataScheme { s with callState := .data }) := fun r s =>
    resumes_fskSelect _ r { s with callState := .data }
  have htxen : Resumes (fun s => { s with fsk := { s.fsk with txen := true } }) := fun _ _ => rfl
  intro r s
  unfold negotiatedHook
  exact ite_map (f := resumed r) (fun _ => rfl) fun _ =>
    (resumes_requestTimer .preData).comp (htxen.comp (resumes_dataDirections.comp hselect)) r s

theorem resumed_phase (r : Response) (s : State) : (resumed r s).v8.phase = s.v8.phase := rfl

theorem resumes_v8Set (p : Phase) : Resumes (v8Set p) := by
  intro r s
  unfold v8Set
  refine ite_map (f := resumed r) (fun _ => rfl) fun _ => ite_map (f := resumed r) (fun _ => ?_) fun _ => ?_
  · exact resumes_negotiatedHook.comp (resumes_emit (.v8State s.v8.phase p)) r { s with v8 := { s.v8 with phase := p } }
  · exact resumes_emit (.v8State s.v8.phase p) r { s with v8 := { s.v8 with phase := p } }

theorem resumes_v8LoadMenu (items : List Byte) : Resumes (v8LoadMenu items) := fun _ _ => rfl

/-- V21 made ready, as the engine does for both directions (`spec/44_v8_engine.md` R276, R287). -/
theorem resumes_selectV21 (tx rx : BitVec 1) (en : Bool) :
    Resumes (fun s => fskSetDirections tx rx en (fskSelect Config.v8Scheme s)) :=
  Resumes.comp (fun _ _ => rfl) (resumes_fskSelect _)

theorem resumes_v8ToneDone : Resumes v8ToneDone := by
  have hmenu : Resumes (fun s => v8LoadMenu (txItems s) s) := fun r s => resumes_v8LoadMenu (txItems s) r s
  have hprepare : Resumes v8PrepareCm := hmenu.comp (resumes_selectV21 1#1 0#1 true)
  exact fun r s => ite_map (f := resumed r) (fun _ => rfl) fun _ => (resumes_v8Set .sentAnsam).comp hprepare r s

/-! ### Sources of samples -/

theorem resumes_toneSettle : Resumes toneSettle := by
  have hend : Resumes toneEnd := fun r s =>
    resumes_v8ToneDone.comp (resumes_emit (.toneDone s.tone.id)) r { s with tone := { s.tone with active := false } }
  have hload : ∀ id total gain so, Resumes (toneLoad id total gain so) := fun _ _ _ _ _ _ => rfl
  have hloop : ∀ fuel, Resumes (toneSettleLoop fuel) := by
    intro fuel
    induction fuel with
    | zero => exact fun _ _ => rfl
    | succ fuel ih =>
      intro r s
      unfold toneSettleLoop
      exact ite_map (f := resumed r)
        (fun _ => ite_map (f := resumed r) (fun _ => (ih.comp (hload s.tone.succ 0#32 s.tone.gain 0xFFFF#16)) r s)
          fun _ => hend r s)
        fun _ => rfl
  exact hloop 34

theorem resumes_toneSample : ResumesWith toneSample := by
  intro r s
  unfold toneSample
  refine ite_map (f := resumedWith r) (fun _ => rfl) fun _ => Prod.ext ?_ rfl
  exact ite_map (f := resumed r) (fun _ => resumes_toneSettle r { s with tone := s.tone.advance.reverse.spend }) fun _ => rfl

theorem resumes_v8PopTxBit : ResumesWith v8PopTxBit := by
  have hnext : ResumesWith v8NextBit := fun _ _ => rfl
  intro r s
  unfold v8PopTxBit
  rw [resumed_phase]
  split
  case h_1 => rw [resumes_v8Set, hnext]
  case h_2 | h_3 => exact hnext r s
  all_goals rfl

theorem resumes_v8TxSample : ResumesWith v8TxSample := by
  intro r s
  unfold v8TxSample
  rw [resumed_phase]
  split
  case h_1 => exact resumes_toneSample r s
  case h_2 | h_3 | h_4 => exact resumes_modSample resumes_v8PopTxBit r s
  all_goals rfl

theorem resumes_pullSample : ResumesWith pullSample := by
  intro r s
  have hcall : (resumed r s).callState = s.callState := rfl
  unfold pullSample
  rw [hcall]
  split
  case h_1 | h_2 => rfl
  case h_3 => exact resumes_toneSample r s
  case h_4 => exact resumes_v8TxSample r s
  case h_5 => exact resumes_modSample resumes_dataPopTxBit r s

/-! ### Blocks asked for in two parts -/

/-- An operation that answers a block of samples of one source, whatever its result words: two parts are the whole. -/
theorem synth_split {f : State → State × Word} (hf : ResumesWith f) {op : BitVec 16 → Instr} {results : BitVec 16 → List Word}
    (hop : ∀ n s, exec (op n) s = answerOk (synth f n.toNat s.begin).1 (results n) (synth f n.toNat s.begin).2)
    {m n : BitVec 16} (h : m.toNat + n.toNat < 65536) (s : State) :
    ∃ t u : State, exec (op m) s = .next t ∧ exec (op n) t = .next u ∧ ∃ results : List Word,
      exec (op (m + n)) s = .next (u.answeredOk results (t.resp.samples ++ u.resp.samples) (t.resp.events ++ u.resp.events)) := by
  refine ⟨_, _, hop m s, hop n _, results (m + n), ?_⟩
  have hcount : (m + n).toNat = m.toNat + n.toNat := BitVec.toNat_add_of_lt h
  rw [hop, hcount, synth_add]
  generalize synth f m.toNat s.begin = first
  have hrest := hf.synth n.toNat first.1.resp first.1.begin
  rw [resumed_begin] at hrest
  rw [hrest]
  rfl

end Sys2Proof.Proofs
end

section
/-! # Received bits and samples after an earlier response (`spec/70_reset_and_hazards.md` R409) -/

namespace Sys2Proof.Proofs

open Sys2Proof.Machine Sys2Proof.Laws

/-! ### Received menus -/

theorem resumes_menuParse (buf : List Byte) : Resumes (menuParse buf) := by
  have hadd : ∀ i, Resumes (rxCapAdd · i) := fun _ r _ => ite_map (f := resumed r) (fun _ => rfl) fun _ => rfl
  exact .foldl hadd _

theorem resumes_v8SendJm (en : Bool) : Resumes (v8SendJm en) := by
  have hmenu : Resumes (fun s => v8LoadMenu (jointItems s) s) := fun r s => resumes_v8LoadMenu (jointItems s) r s
  have htxen : Resumes (fun s => if en then { s with fsk := { s.fsk with txen := true } } else s) := fun r _ =>
    ite_map (f := resumed r) (fun _ => rfl) fun _ => rfl
  exact (resumes_v8Set .sentJm).comp (htxen.comp hmenu)

theorem resumes_v8Confirm : Resumes v8Confirm := by
  intro r s
  unfold v8Confirm
  rw [resumed_phase]
  split
  case h_1 => exact resumes_v8Set _ r s
  case h_2 | h_3 => exact resumes_v8SendJm _ r s
  all_goals rfl

theorem resumes_v8Marker : Resumes v8Marker := by
  have hclear : Resumes markerClear := fun _ _ => rfl
  have hconfirm : ∀ ck, Resumes (fun s => markerClear (if s.v8.ckv && decide (ck = s.v8.ck)
      then v8Confirm { s with v8 := { s.v8 with ck := ck, ckv := true } }
      else { s with v8 := { s.v8 with ck := ck, ckv := true } })) := fun ck =>
    hclear.comp fun r s => ite_map (f := resumed r)
      (fun _ => resumes_v8Confirm r { s with v8 := { s.v8 with ck := ck, ckv := true } }) fun _ => rfl
  intro r s
  unfold v8Marker
  exact ite_map (f := resumed r) (fun _ => ((hconfirm _).comp (resumes_menuParse _)) r s) fun _ => rfl

theorem resumes_v8StoreByte (v : Byte) : Resumes (v8StoreByte v) := by
  have hroom : Resumes (fun s => if s.v8.rxlen.toNat < Config.menuCap
      then { s with v8 := { s.v8 with rxbuf := ramWrite s.v8.rxbuf s.v8.rxlen.toNat v, rxlen := s.v8.rxlen + 1#5 } }
      else s) := fun r s => ite_map (f := resumed r) (fun _ => rfl) fun _ => rfl
  have hzeros : Resumes (fun s => { s with v8 := { s.v8 with
      zrun := if v = 0#8 then BitVec.ofNat 2 (min (s.v8.zrun.toNat + 1) Config.v8ZeroFrames) else 0#2 } }) := fun _ _ => rfl
  exact hzeros.comp hroom

theorem resumes_v8FrameBit (b : Bool) : Resumes (v8FrameBit b) := by
  have hend : Resumes (fun s => if s.v8.phase = .sentJm ∧ s.v8.zrun.toNat = Config.v8ZeroFrames
      then v8Set .negotiated s else s) := fun r s =>
    ite_map (f := resumed r) (fun _ => resumes_v8Set _ r s) fun _ => rfl
  intro r s
  unfold v8FrameBit
  rw [resumes_frmPush v8Codec b r s]
  dsimp only [resumedWith]
  split
  case h_1 => rfl
  case h_2 v hv => exact hend.comp (resumes_v8StoreByte v) r _

theorem resumes_v8PushRxBit (b : Bool) : Resumes (v8PushRxBit b) := by
  have htake : Resumes (v8TakeBit b) := fun r s => ite_map (f := resumed r)
    (fun _ => resumes_v8Marker r { s with v8 := s.v8.shiftIn b })
    fun _ => resumes_v8FrameBit b r { s with v8 := s.v8.shiftIn b }
  intro r s
  unfold v8PushRxBit
  rw [resumed_phase]
  split
  case h_1 | h_2 | h_3 | h_4 => exact htake r s
  all_goals rfl

/-! ### Tone classifier -/

theorem resumes_detStep (dual : Bool) (x : Word) : Resumes (detStep dual · x) := by
  have hfeed : ∀ units : List Nat, Resumes (fun s => units.foldl (fun t u => goertzelStep u (sampleInt x) t) s) := fun units =>
    .foldl (fun _ _ _ => rfl) units
  have hfill : Resumes (fun s => { s with det := { s.det with fill := s.det.fill + 1#16 } }) := fun _ _ => rfl
  exact fun r s => hfill.comp (hfeed (fedUnits s dual)) r s

theorem resumes_detFinish (dual : Bool) (used : Nat) : ResumesWith (detFinish dual used) := by
  have hclear : ∀ units : List Nat, Resumes (fun s => units.foldl detClearUnit s) := fun units => .foldl (fun _ _ _ => rfl) units
  have hclassify : ∀ c, ResumesWith (classify c used) := fun c r s => by
    rw [classify_eq, classify_eq]
    rfl
  intro r s
  have hunits : detClearUnits (resumed r s) = resumed r (detClearUnits s) := hclear (ownedUnits s) r s
  unfold detFinish
  rw [hunits]
  exact hclassify _ r { detClearUnits s with det := { (detClearUnits s).det with fill := 0#16 } }

theorem resumes_detect (dual : Bool) (xs : List Word) : ResumesWith (detect dual xs) := by
  intro r s
  have hsamples := Resumes.foldl (resumes_detStep dual) (xs.take (min xs.length (Config.detBlock - s.det.fill.toNat))) r s
  have hdet : (resumed r s).det = s.det := rfl
  unfold detect
  refine ite_map (f := resumedWith r) (fun _ => rfl) fun _ => ?_
  dsimp only at hsamples ⊢
  rw [hdet, hsamples]
  exact ite_map (f := resumedWith r) (fun _ => rfl) fun _ => resumes_detFinish dual _ r _

theorem resumes_answerSeen : Resumes answerSeen := (resumes_v8Set .waitCm).comp (resumes_selectV21 0#1 1#1 false)

theorem resumes_digit : Resumes digit := by
  have hdial : Resumes (fun s => if s.callState = .offHookIdle then { toneStop s with callState := .dialing } else s) :=
    fun r _ => ite_map (f := resumed r) (fun _ => rfl) fun _ => rfl
  exact (resumes_requestTimer .postDial).comp hdial

end Sys2Proof.Proofs
end

section
/-! # Receiving sample by sample (`spec/42_tone_engine.md` R204, `spec/44_v8_engine.md` R286, `spec/46_facade_host.md` R334)

The receive loops take samples in the classifier's blocks. They do what a step per sample does: a block of samples is the fold of
that step, so it can be cut anywhere. -/

namespace Sys2Proof.Proofs

open Sys2Proof.Machine Sys2Proof.Laws

variable {s : State}

/-! ### The classifier -/

/-- A classifier that is off takes no notice of the samples (R204). -/
theorem detect_none {dual : Bool} (xs : List Word) (hn : s.det.n = 0#5) :
    detect dual xs s = (s, ⟨.none, 0#8, xs.length⟩) := by
  unfold detect
  rw [if_pos hn]

theorem detStep_fill (dual : Bool) (x : Word) (hs : s.det.fill.toNat < 256) :
    (detStep dual s x).det.fill.toNat = s.det.fill.toNat + 1 :=
  foldl_detStep_fill (dual := dual) (xs := [x]) (s := s) hs

/-- A sample that is not the block's last is taken before the others (R204). -/
theorem detect_cons_inside {dual : Bool} {x : Word} {xs : List Word} (hn : s.det.n ≠ 0#5) (h : s.det.fill.toNat + 1 < 256) :
    detect dual (x :: xs) s =
      ((detect dual xs (detStep dual s x)).1,
        { (detect dual xs (detStep dual s x)).2 with used := (detect dual xs (detStep dual s x)).2.used + 1 }) := by
  have hn' : (detStep dual s x).det.n ≠ 0#5 := by rwa [detStep_eq]
  have hused : min (xs.length + 1) (Config.detBlock - s.det.fill.toNat) =
      min xs.length (Config.detBlock - (detStep dual s x).det.fill.toNat) + 1 := by
    rw [detStep_fill dual x (by omega), detBlock_eq]
    omega
  unfold detect
  rw [if_neg hn, if_neg hn', List.length_cons, hused]
  dsimp only
  rw [List.take_succ_cons, List.foldl_cons]
  split
  case isTrue => rfl
  case isFalse => rw [detFinish_eq, detFinish_eq]

/-- The block's last sample is taken alone (R204). -/
theorem detect_cons_last {dual : Bool} {x : Word} (xs : List Word) (hn : s.det.n ≠ 0#5) (h : s.det.fill.toNat + 1 = 256) :
    detect dual (x :: xs) s = detect dual [x] s := by
  have htake : ∀ ys, blockFilled dual (x :: ys) s = detStep dual s x := fun ys => by
    rw [blockFilled, show 256 - s.det.fill.toNat = 1 by omega]
    rfl
  rw [detect_end_eq hn (by omega) (by simp; omega), detect_end_eq hn (by omega) (by simp; omega), htake, htake]

/-- A loop over the classifier's blocks that looks at every report with `react`, and its step for one sample: `react` answers
nothing but `NEW`, whatever number of samples was used. `P` says when the loop is in this branch. -/
structure Heeds (dual : Bool) (P : State → Prop) (react : State × Detection → State) (step : State → Word → State) : Prop where
  keeps : ∀ s x, P s → P (detStep dual s x)
  step : ∀ s x, P s → s.det.fill.toNat < 256 → step s x = react (detect dual [x] s)
  quiet : ∀ s d, d.cls ≠ .new → react (s, d) = s
  used : ∀ s d n, react (s, { d with used := n }) = react (s, d)

/-- One turn of such a loop is the step for each of the samples that the turn takes. -/
theorem Heeds.turn {dual : Bool} {P : State → Prop} {react : State × Detection → State} {step : State → Word → State}
    (h : Heeds dual P react step) (xs : List Word) (hP : P s) (hs : s.det.fill.toNat < 256) :
    react (detect dual xs s) = (xs.take (detect dual xs s).2.used).foldl step s := by
  induction xs generalizing s with
  | nil =>
    by_cases hn : s.det.n = 0#5
    · rw [detect_none [] hn]
      exact h.quiet _ _ nofun
    · rw [detect_inside (xs := []) hn hs]
      exact h.quiet _ _ nofun
  | cons x xs ih =>
    by_cases hn : s.det.n = 0#5
    · have hrest := ih hP hs
      have hstep : step s x = s := by
        rw [h.step s x hP hs, detect_none [x] hn]
        exact h.quiet _ _ nofun
      rw [detect_none xs hn] at hrest
      rw [detect_none (x :: xs) hn, List.length_cons, List.take_succ_cons, List.foldl_cons, hstep, ← hrest]
      exact (h.used _ _ _).symm
    · rcases Nat.lt_or_eq_of_le (show s.det.fill.toNat + 1 ≤ 256 from hs) with hin | hend
      · have hstep : step s x = detStep dual s x := by
          rw [h.step s x hP hs, detect_inside (xs := [x]) hn hin]
          exact h.quiet _ _ nofun
        rw [detect_cons_inside hn hin, List.take_succ_cons, List.foldl_cons, hstep,
          ← ih (h.keeps s x hP) (by rwa [detStep_fill dual x hs])]
        exact h.used _ _ _
      · have htaken : (detect dual [x] s).2.used = 1 := detect_takes_all dual hs hend.le
        rw [detect_cons_last xs hn hend, htaken, ← h.step s x hP hs]
        rfl

/-- The classifier takes a sample of every block that has one. -/
theorem detect_used_pos (dual : Bool) (x : Word) (xs : List Word) (hs : s.det.fill.toNat < 256) :
    1 ≤ (detect dual (x :: xs) s).2.used := by
  by_cases hn : s.det.n = 0#5
  · rw [detect_none _ hn]
    exact Nat.succ_pos _
  · rcases Nat.lt_or_eq_of_le (show s.det.fill.toNat + 1 ≤ 256 from hs) with hin | hend
    · rw [detect_cons_inside hn hin]
      exact Nat.succ_pos _
    · rw [detect_cons_last xs hn hend, detect_takes_all dual (xs := [x]) hs hend.le]
      exact le_rfl

/-- The samples that a turn leaves are fewer. -/
theorem detect_rest_length {dual : Bool} {x : Word} {xs : List Word} {fuel : Nat} (hs : s.det.fill.toNat < 256)
    (h : (x :: xs).length ≤ fuel + 1) : ((x :: xs).drop (detect dual (x :: xs) s).2.used).length ≤ fuel := by
  have hpos := detect_used_pos dual x xs hs
  rw [List.length_drop]
  omega

theorem detInv_detect (dual : Bool) (xs : List Word) (hs : s.detInv) : (detect dual xs s).1.detInv :=
  kept_detInv.move _ _ (.detect s dual xs) hs

/-! ### `V8_RX` -/

/-- What `RX_ANS` makes of a report of the classifier (R286). -/
def heedAnswer (r : State × Detection) : State := if r.2.cls = .new then answerSeen r.1 else r.1

theorem answerSeen_det (s : State) : (answerSeen s).det = s.det := by
  obtain ⟨-, -, -, -, hset, -⟩ := v8Set_keeps (fskSetDirections 0#1 1#1 false (fskSelect Config.v8Scheme s)) .waitCm
  obtain ⟨-, -, -, -, -, -, hselect, -⟩ := fskSelect_keeps s Config.v8Scheme
  rw [answerSeen, hset, fskSetDirections_det, hselect]

theorem detInv_heedAnswer {r : State × Detection} (hs : r.1.detInv) : (heedAnswer r).detInv := by
  have hdet : (heedAnswer r).det = r.1.det := by
    unfold heedAnswer
    split
    · exact answerSeen_det r.1
    · rfl
  rwa [State.detInv, hdet]

theorem v8RxLoop_rxAns (h : s.v8.phase = .rxAns) (fuel : Nat) (x : Word) (xs : List Word) :
    v8RxLoop (fuel + 1) (x :: xs) s =
      v8RxLoop fuel ((x :: xs).drop (detect false (x :: xs) s).2.used) (heedAnswer (detect false (x :: xs) s)) := by
  conv_lhs => unfold v8RxLoop
  rw [h]
  rfl

theorem heeds_answer :
    Heeds false (fun s => s.v8.phase = .rxAns) heedAnswer (fun s x => v8RxBlock [x] s) where
  keeps s x h := by rwa [detStep_eq]
  step s x h hs := v8RxBlock_rxAns h (List.cons_ne_nil x []) (detect_takes_all false hs hs)
  quiet s d h := if_neg h
  used s d n := rfl

theorem phase_hears (p : Phase) : p = .rxAns ∨ menuPhase p ∨ deafPhase p := by
  unfold menuPhase deafPhase
  cases p <;> decide

/-- The receive loop is its step for each sample (R286). -/
theorem v8RxLoop_eq_foldl {fuel : Nat} {xs : List Word} (hfuel : xs.length ≤ fuel) (hs : s.detInv) :
    v8RxLoop fuel xs s = xs.foldl (fun u x => v8RxBlock [x] u) s := by
  induction fuel generalizing s xs with
  | zero => rw [List.length_eq_zero_iff.mp (Nat.le_zero.mp hfuel)]; rfl
  | succ fuel ih =>
    cases xs with
    | nil => rfl
    | cons x xs =>
      rcases phase_hears s.v8.phase with h | h | h
      · rw [v8RxLoop_rxAns h, ih (detect_rest_length hs hfuel) (detInv_heedAnswer (detInv_detect _ _ hs)),
          heeds_answer.turn (x :: xs) h hs, ← List.foldl_append, List.take_append_drop]
      · have hone : v8RxBlock [x] s = demSample v8PushRxBit x s := by
          rw [v8RxBlock, v8RxLoop_menu h, v8RxLoop_nil]
        have hkept : (demSample v8PushRxBit x s).detInv :=
          (moves_demSample s (fun b u => moves_v8PushRxBit u b) x).inv kept_detInv.move hs
        rw [v8RxLoop_menu h, ih (Nat.le_of_succ_le_succ hfuel) hkept, List.foldl_cons, hone]
      · rw [v8RxLoop_deaf h]
        exact (List.foldl_fixed' (fun y => v8RxLoop_deaf h _ [y]) (x :: xs)).symm

/-! ### `PUSH` -/

/-- What `PUSH` makes of a report of the classifier (R334). -/
def heedDigit (r : State × Detection) : State := if r.2.isDigit then digit r.1 else r.1

theorem detInv_heedDigit {r : State × Detection} (hs : r.1.detInv) : (heedDigit r).detInv := by
  have hdet : (heedDigit r).det = r.1.det := by
    unfold heedDigit
    split
    · unfold digit requestTimer
      split <;> rfl
    · rfl
  rwa [State.detInv, hdet]

theorem digitState_heedDigit {r : State × Detection} (h : digitState r.1) : digitState (heedDigit r) := by
  unfold heedDigit
  split
  · exact .inr (digit_callState _ h)
  · exact h

theorem digitState_detect (dual : Bool) (xs : List Word) (h : digitState s) : digitState (detect dual xs s).1 := by
  rwa [digitState, (detect_keeps s dual xs).2.1]

theorem pushDetectLoop_cons (fuel : Nat) (x : Word) (xs : List Word) (s : State) :
    pushDetectLoop (fuel + 1) (x :: xs) s =
      pushDetectLoop fuel ((x :: xs).drop (detect true (x :: xs) s).2.used) (heedDigit (detect true (x :: xs) s)) := rfl

theorem heeds_digit : Heeds true digitState heedDigit (fun s x => pushBlock [x] s) where
  keeps s x h := by
    rw [detStep_eq]
    exact h
  step s x h hs := by
    rw [pushBlock_digits h, pushDetectLoop_block (List.cons_ne_nil x []) (detect_takes_all true hs hs)]
    rfl
  quiet s d h := by
    unfold heedDigit Detection.isDigit
    rw [decide_eq_false h]
    rfl
  used s d n := rfl

/-- The digit loop is its step for each sample (R334). -/
theorem pushDetectLoop_eq_foldl {fuel : Nat} {xs : List Word} (hfuel : xs.length ≤ fuel) (hs : s.detInv) (hcall : digitState s) :
    pushDetectLoop fuel xs s = xs.foldl (fun u x => pushBlock [x] u) s := by
  induction fuel generalizing s xs with
  | zero => rw [List.length_eq_zero_iff.mp (Nat.le_zero.mp hfuel)]; rfl
  | succ fuel ih =>
    cases xs with
    | nil => rfl
    | cons x xs =>
      rw [pushDetectLoop_cons, ih (detect_rest_length hs hfuel) (detInv_heedDigit (detInv_detect _ _ hs))
        (digitState_heedDigit (digitState_detect _ _ hcall)),
        heeds_digit.turn (x :: xs) hcall hs, ← List.foldl_append, List.take_append_drop]

/-- The condition under which the parts of a block given to `PUSH` are taken like the whole (R409). -/
def pushable (s : State) : Prop := s.detInv ∧ s.callState ≠ .v8

theorem callState_pushable (h : s.callState ≠ .v8) : s.callState = .onHook ∨ digitState s ∨ s.callState = .data := by
  unfold digitState
  cases hc : s.callState <;> simp_all

theorem pushBlock_data_callState (h : s.callState = .data) (xs : List Word) : (pushBlock xs s).callState = .data := by
  rw [pushBlock_data h, demBlock_keeps s State.callState _ xs (fun _ _ _ => rfl) (fun b u => (dataPushRxBit_keeps u b).2.1), h]

theorem pushBlock_data_eq_foldl (xs : List Word) (h : s.callState = .data) :
    pushBlock xs s = xs.foldl (fun u x => pushBlock [x] u) s := by
  induction xs generalizing s with
  | nil => exact pushBlock_data h []
  | cons x xs ih =>
    have hnext := pushBlock_data_callState h [x]
    rw [List.foldl_cons, ← ih hnext, pushBlock_data hnext, pushBlock_data h [x], pushBlock_data h (x :: xs)]
    rfl

/-- Outside call state `V8`, `PUSH` is its step for each sample (R334). -/
theorem pushBlock_eq_foldl (xs : List Word) (h : pushable s) : pushBlock xs s = xs.foldl (fun u x => pushBlock [x] u) s := by
  obtain ⟨hs, hcall⟩ := h
  rcases callState_pushable hcall with hcall | hcall | hcall
  · rw [pushBlock_onHook hcall]
    exact (List.foldl_fixed' (fun x => pushBlock_onHook hcall [x]) xs).symm
  · rw [pushBlock_digits hcall, pushDetectLoop_eq_foldl (Nat.le_succ _) hs hcall]
  · exact pushBlock_data_eq_foldl xs hcall

theorem pushable_pushBlock (xs : List Word) (h : pushable s) : pushable (pushBlock xs s) := by
  obtain ⟨hs, hcall⟩ := h
  refine ⟨(moves_pushBlock s xs).inv kept_detInv.move hs, ?_⟩
  rcases callState_pushable hcall with hcall | hcall | hcall
  · rwa [pushBlock_onHook hcall]
  · rw [pushBlock_digits hcall]
    rcases pushDetectLoop_callState (xs.length + 1) xs s hcall with hend | hend <;> rw [hend]
    · assumption
    · nofun
  · rw [pushBlock_data_callState hcall]
    nofun

/-! ### The loops after an earlier response -/

theorem resumes_heedAnswer {r : Response} (p : State × Detection) : heedAnswer (resumedWith r p) = resumed r (heedAnswer p) :=
  ite_map (f := resumed r) (fun _ => resumes_answerSeen r p.1) fun _ => rfl

theorem resumes_heedDigit {r : Response} (p : State × Detection) : heedDigit (resumedWith r p) = resumed r (heedDigit p) :=
  ite_map (f := resumed r) (fun _ => resumes_digit r p.1) fun _ => rfl

theorem resumes_v8RxLoop (fuel : Nat) (xs : List Word) : Resumes (v8RxLoop fuel xs) := by
  intro r s
  induction fuel generalizing s xs with
  | zero => rfl
  | succ fuel ih =>
    cases xs with
    | nil => rfl
    | cons x xs =>
      rcases phase_hears s.v8.phase with h | h | h
      · rw [v8RxLoop_rxAns h, v8RxLoop_rxAns (s := resumed r s) h, resumes_detect, resumes_heedAnswer, ← ih]
        rfl
      · rw [v8RxLoop_menu h, v8RxLoop_menu (s := resumed r s) h, resumes_demSample resumes_v8PushRxBit, ih]
      · rw [v8RxLoop_deaf h, v8RxLoop_deaf (s := resumed r s) h]

theorem resumes_pushDetectLoop (fuel : Nat) (xs : List Word) : Resumes (pushDetectLoop fuel xs) := by
  intro r s
  induction fuel generalizing s xs with
  | zero => rfl
  | succ fuel ih =>
    cases xs with
    | nil => rfl
    | cons x xs =>
      rw [pushDetectLoop_cons, pushDetectLoop_cons, resumes_detect, resumes_heedDigit, ← ih]
      rfl

theorem resumes_demBlock {sink : Bool → State → State} (hsink : ∀ b, Resumes (sink b)) (xs : List Word) :
    Resumes (demBlock sink xs) :=
  .foldl (resumes_demSample hsink) xs

theorem resumes_pushBlock (xs : List Word) : Resumes (pushBlock xs) := by
  intro r s
  have hcall : (resumed r s).callState = s.callState := rfl
  unfold pushBlock
  rw [hcall]
  split
  case h_1 => rfl
  case h_2 | h_3 => exact resumes_pushDetectLoop _ xs r s
  case h_4 => exact resumes_v8RxLoop _ xs r s
  case h_5 => exact resumes_demBlock resumes_dataPushRxBit xs r s

/-! ### Blocks given in two parts -/

/-- An operation that takes a block of samples one by one: while `P` holds, two parts are the whole. -/
theorem fold_split {P : State → Prop} {block : List Word → State → State} {op : List Word → Instr}
    (hop : ∀ xs s, exec (op xs) s = answerOk (block xs s.begin) [] [])
    (hfold : ∀ xs s, P s → block xs s = xs.foldl (fun u x => block [x] u) s) (hkeep : ∀ xs s, P s → P (block xs s))
    (hbegin : ∀ s, P s → P s.begin) (hresumes : ∀ x, Resumes (block [x])) (xs ys : List Word) (hs : P s) :
    ∃ t u : State, exec (op xs) s = .next t ∧ exec (op ys) t = .next u ∧
      exec (op (xs ++ ys)) s = .next (u.answeredOk [] [] (t.resp.events ++ u.resp.events)) := by
  refine ⟨_, _, hop xs s, hop ys _, ?_⟩
  have hfirst := hkeep xs _ (hbegin s hs)
  rw [hop, hfold (xs ++ ys) _ (hbegin s hs), List.foldl_append, ← hfold xs _ (hbegin s hs)]
  generalize block xs s.begin = first at hfirst
  have hrest := Resumes.foldl hresumes ys first.resp first.begin
  dsimp only at hrest
  rw [resumed_begin, ← hfold ys _ (hbegin _ hfirst)] at hrest
  rw [hrest]
  rfl

end Sys2Proof.Proofs
end

section
/-! # The obligations on blocks of samples (`spec/70_reset_and_hazards.md` R409) -/

namespace Sys2Proof.Proofs

open Sys2Proof.Machine Sys2Proof.Laws

/-- Settles O58: each source does the same whatever was answered before it. -/
theorem transmitSplit : Obligations.TransmitSplit := by
  unfold Obligations.TransmitSplit
  intro m n s h
  exact ⟨synth_split resumes_toneSample exec_toneTx h s,
    synth_split (resumes_modSample resumes_dataPopTxBit) (fun _ _ => rfl) h s,
    synth_split resumes_v8TxSample exec_v8Tx h s, synth_split resumes_pullSample exec_pull h s⟩

/-- Settles O59: each operation takes its samples one by one, whatever was answered before them. -/
theorem receiveSplit : Obligations.ReceiveSplit := by
  unfold Obligations.ReceiveSplit
  intro xs ys s hs
  refine ⟨?fskRx, ?v8Rx, fun hcall => ?push⟩
  case fskRx =>
    exact fold_split (P := fun _ => True) (block := demBlock dataPushRxBit) (fun _ _ => rfl) (fun _ _ _ => rfl)
      (fun _ _ h => h) (fun _ h => h) (fun x => resumes_demBlock resumes_dataPushRxBit [x]) xs ys trivial
  case v8Rx =>
    exact fold_split exec_v8Rx (fun _ _ h => v8RxLoop_eq_foldl (Nat.le_succ _) h)
      (fun xs s h => (moves_v8RxLoop s _ xs).inv kept_detInv.move h) (fun _ h => h) (fun x => resumes_v8RxLoop _ [x]) xs ys hs
  case push =>
    exact fold_split exec_push (fun xs _ h => pushBlock_eq_foldl xs h) (fun xs _ h => pushable_pushBlock xs h) (fun _ h => h)
      (fun x => resumes_pushBlock [x]) xs ys ⟨hs, hcall⟩

end Sys2Proof.Proofs
end
